-- ==== Sys2Proof/Word.lean ====
section
/-! DEFINITION. The word types of the block: a byte, the 16-bit command and response words, the 32-bit
sequence counters (00_scope.md R10: every value is unsigned). -/

namespace Sys2Proof

/-- One byte: the unit of every buffer, of the wire and of every operand register (20_memory.md R70). -/
abbrev Byte := BitVec 8

/-- A command word, a response word or a 16-bit register (30_encoding.md R100, 10_state.md R30 to R32). -/
abbrev Word16 := BitVec 16

/-- A secure-channel sequence counter (10_state.md R47, R48). -/
abbrev Word32 := BitVec 32

/-- `n` bytes of 0x00. -/
abbrev zeroBytes (n : Nat) : List Byte := List.replicate n 0#8

end Sys2Proof
end

