-- ==== Sys2Proof/Config.lean ====
section
/-! DEFINITION. The configuration record `Cfg` of 00_scope.md R8, its parameter `SUITE` as plain data
(45_cipher_suite.md R260), its constraints, and the free value: the entropy input (R11 `draw`), an opaque constant, so
that no proof can see what it is. -/

namespace Sys2Proof

/-- One value of `RESP`, `INITV`, `KDF_ENC` or `KDF_MAC` (45_cipher_suite.md R260): its arguments and its result. -/
structure NonceRow where
  psk : List Byte
  na : List Byte
  nb : List Byte
  value : List Byte
deriving DecidableEq, Repr

/-- One value of `MAC` (45_cipher_suite.md R260): its arguments and its result. -/
structure MacRow where
  kmac : List Byte
  addr : Byte
  ctrl : Byte
  seq : Word32
  pt : List Byte
  value : List Byte
deriving DecidableEq, Repr

/-- Under one key, direction and counter, the texts `a` and `b` are exchanged: one factor of `ENC`
(45_cipher_suite.md R260, R262). -/
structure CipherRow where
  kenc : List Byte
  dir : BitVec 1
  seq : Word32
  a : List Byte
  b : List Byte
deriving DecidableEq, Repr

/-- A cipher suite written out as plain data (45_cipher_suite.md R260; log entry 6): the values of the five functions
of fixed result length, and `ENC` as exchanges of texts, of which `DEC` undoes the last one first. Whatever the rows
are, the laws R261 to R264 hold (`Obligations.SuiteIsAsSpecified`), and every suite that satisfies them is of this form
on the arguments of R260 (`suiteTable_complete` in Laws/SuiteTable.lean). -/
structure SuiteTable where
  resp : List NonceRow
  initv : List NonceRow
  kdfEnc : List NonceRow
  kdfMac : List NonceRow
  cipher : List CipherRow
  mac : List MacRow
deriving DecidableEq, Repr

/-- The parameter `SUITE` of 00_scope.md R8: a cipher suite of 45_cipher_suite.md R260. -/
inductive SuiteId where
  /-- `SUITE_REF`, R270 to R277. -/
  | ref
  /-- `SUITE_NULL`, R266. -/
  | null
  /-- The suite that a table gives: any suite admissible under R261 to R264. -/
  | table (t : SuiteTable)
deriving DecidableEq, Repr

/-- The configuration record of 00_scope.md R8. `BUF_SIZE` is not a field because R8 makes it equal to
`MAX_FRAME_LEN`, and `SEQ_LEN` is not because R8 fixes it at 4. The defaults are R8's. -/
structure Cfg where
  /-- `SOM`, the value of the START byte. -/
  som : Byte := 0x53#8
  /-- `MAX_FRAME_LEN`, the largest legal value of the length field. -/
  maxFrameLen : Nat := 256
  /-- `RXBUF_SIZE`, the capacity of the accumulation buffer. -/
  rxbufSize : Nat := 512
  /-- `TXFIFO_SIZE`, the capacity of the transmit FIFO. -/
  txfifoSize : Nat := 512
  /-- `CRC_POLY`, the generator polynomial without its x^16 term. -/
  crcPoly : Word16 := 0x1021#16
  /-- `CRC_INIT`, the initial accumulator. -/
  crcInit : Word16 := 0x1D0F#16
  /-- `N_CTX`, the number of secure-channel contexts. -/
  nCtx : Nat := 2
  /-- `KEY_LEN`, the length of the secret and of the two session keys. -/
  keyLen : Nat := 16
  /-- `NONCE_LEN`, the length of each nonce. -/
  nonceLen : Nat := 8
  /-- `VERIF_LEN`, the length of each verification value. -/
  verifLen : Nat := 16
  /-- `TAG_LEN`, the length of the tag on the wire. -/
  tagLen : Nat := 4
  /-- `SC_FAIL_LIMIT`, the consecutive failures that move Active to Failed. -/
  scFailLimit : Nat := 3
  /-- `SUITE`, the cipher suite. -/
  suite : SuiteId := .ref
deriving DecidableEq, Repr

/-- The default configuration of 00_scope.md R8. -/
def Cfg.default : Cfg := {}

/-- `BUF_SIZE = MAX_FRAME_LEN` (00_scope.md R8). -/
abbrev Cfg.bufSize (c : Cfg) : Nat := c.maxFrameLen

/-- `SEQ_LEN`, fixed at 4 (00_scope.md R8). -/
abbrev Cfg.seqLen (_ : Cfg) : Nat := 4

/-- The constraint column of 00_scope.md R8, with what 45_cipher_suite.md R270 requires of `SUITE_REF`. That SUITE
satisfies R261 to R264 needs no conjunct: every `SuiteId` does (`Obligations.SuiteIsAsSpecified`).
The last conjunct but one is DEDUCED (log entry 4): SCCHAL writes `NONCE_LEN + VERIF_LEN` bytes into OBUF, whose
length is bounded by `BUF_SIZE` (10_state.md R32). -/
abbrev Cfg.valid (c : Cfg) : Prop :=
  7 ≤ c.maxFrameLen ∧ c.maxFrameLen ≤ 65535 ∧
  c.maxFrameLen ≤ c.rxbufSize ∧ c.maxFrameLen ≤ c.txfifoSize ∧
  1 ≤ c.nCtx ∧ c.nCtx ≤ 256 ∧
  1 ≤ c.nonceLen ∧ 2 * c.nonceLen + 1 ≤ c.bufSize ∧
  1 ≤ c.scFailLimit ∧ c.scFailLimit ≤ 255 ∧
  c.nonceLen + c.verifLen ≤ c.bufSize ∧
  (c.suite = .ref →
    c.keyLen = 16 ∧ c.nonceLen = 8 ∧ c.verifLen = 16 ∧ 1 ≤ c.tagLen ∧ c.tagLen ≤ 16)

/-- FREE VALUE (log entry 5): byte `i` of what the entropy source delivers after the bytes it already has
ready (00_scope.md R11 `draw`, 93_implementation_defined.md U17: any value at each call). -/
opaque Config.entropyByte : Nat → Byte

end Sys2Proof
end

