-- ==== Sys2Proof/Machine/Bytes.lean ====
section
/-! DEFINITION. Byte order, bit-field and slice helpers (00_scope.md R10, 20_memory.md R71). -/

namespace Sys2Proof.Machine

/-- `v[7:0]` of a 16-bit value (00_scope.md R10). -/
def lowByte (v : Word16) : Byte := v.setWidth 8

/-- `v[15:8]` of a 16-bit value (00_scope.md R10). -/
def highByte (v : Word16) : Byte := (v >>> 8).setWidth 8

/-- The 16-bit value whose bits 15:8 are `hi` and bits 7:0 are `lo`. -/
def word16 (hi lo : Byte) : Word16 := hi ++ lo

/-- A length as a 16-bit value: `x[ILEN]`, `x[OLEN]`, or the length field of a frame. -/
def lenWord (n : Nat) : Word16 := BitVec.ofNat 16 n

/-- A length cut to its low 8 bits: the data byte of a response that reports one (46_host_ops.md R318). -/
def lenByte (n : Nat) : Byte := lowByte (lenWord n)

/-- `le16(v)` (00_scope.md R10): low byte first. -/
def le16 (v : Word16) : List Byte := [lowByte v, highByte v]

/-- `from_le16` of a low and a high byte, as a number (00_scope.md R10). -/
def fromLe16 (lo hi : Byte) : Nat := lo.toNat + 256 * hi.toNat

/-- `le32(v)` (00_scope.md R10): low byte first. -/
def le32 (v : Word32) : List Byte :=
  [v.setWidth 8, (v >>> 8).setWidth 8, (v >>> 16).setWidth 8, (v >>> 24).setWidth 8]

/-- `s[i]` of a byte sequence. Every rule checks the length before it reads, so the 0x00 that a read beyond
the end would give is never used (00_scope.md R11, `MemRead`). -/
def byteAt (s : List Byte) (i : Nat) : Byte := s.getD i 0#8

/-- `from_le32(s[0..3])` (00_scope.md R10). -/
def fromLe32 (s : List Byte) : Word32 :=
  byteAt s 3 ++ byteAt s 2 ++ byteAt s 1 ++ byteAt s 0

/-- The `n` bytes of `s` from index `i` on (00_scope.md R10, `s[a..b]` with `n = b - a + 1`). -/
def slice (s : List Byte) (i n : Nat) : List Byte := (s.drop i).take n

/-- Bytewise exclusive or of two byte sequences (00_scope.md R10); the shorter one decides the length. -/
def xorBytes (a b : List Byte) : List Byte := List.zipWith (· ^^^ ·) a b

end Sys2Proof.Machine
end

