-- ==== Sys2Proof/Machine/Operands.lean ====
section
/-! DEFINITION. The operand forms: the fields of a command word (30_encoding.md R100, R120), the fields of the
CONTROL byte (R108), and the sizes derived from them (00_scope.md R9). -/

namespace Sys2Proof.Machine

/-- `W[15:8]`, the opcode of a command word (30_encoding.md R100). -/
def opcodeOf (w : Word16) : Byte := highByte w

/-- `W[7:0]`, the immediate operand of a command word (30_encoding.md R100, R120: unsigned, never extended). -/
def immOf (w : Word16) : Byte := lowByte w

/-- `imm[0]`, the responder's verdict: SCFIN's operand; `imm[7:1]` is ignored (30_encoding.md R120,
43_secure_handshake.md R222). -/
def verdictOf (imm : Byte) : Bool := imm.getLsbD 0

/-- `CONTROL[1:0]`, the field SQN, which the block copies and never reads (30_encoding.md R108, R109). -/
def controlSqn (ctrl : Byte) : BitVec 2 := ctrl.setWidth 2

/-- `CONTROL[2]`, the CRC-select flag (30_encoding.md R108). -/
def controlCrc (ctrl : Byte) : Bool := ctrl.getLsbD 2

/-- `CONTROL[3]`, the secure-channel flag (30_encoding.md R108). -/
def controlSec (ctrl : Byte) : Bool := ctrl.getLsbD 3

/-- `HDR_LEN = 5` (00_scope.md R9). -/
def hdrLen : Nat := 5

/-- `TL(c)`, the trailer length (00_scope.md R9). -/
def trailerLen (ctrl : Byte) : Nat := if controlCrc ctrl then 2 else 1

/-- `MIN_FRAME_LEN(c)` (00_scope.md R9, 30_encoding.md R107). -/
def minFrameLen (ctrl : Byte) : Nat := hdrLen + trailerLen ctrl

/-- The length `L` of a frame with control byte `ctrl` and an `n`-byte payload (30_encoding.md R106). -/
def frameLen (ctrl : Byte) (n : Nat) : Nat := hdrLen + n + trailerLen ctrl

/-- `MAX_PAYLOAD(c)` (00_scope.md R9). -/
def maxPayload (c : Cfg) (ctrl : Byte) : Nat := c.maxFrameLen - hdrLen - trailerLen ctrl

/-- `SEC_OVH = SEQ_LEN + TAG_LEN` (00_scope.md R9). -/
def secOvh (c : Cfg) : Nat := c.seqLen + c.tagLen

end Sys2Proof.Machine
end

