-- ==== Sys2Proof/Machine/Trailer.lean ====
section
/-! DEFINITION. The trailer generator TRL as pure functions: the checksum (42_trailer_generator.md R190) and the
CRC-16 (R191). -/

namespace Sys2Proof.Machine

/-- `s[0] + s[1] + ...`, as an exact number (42_trailer_generator.md R190). -/
def byteSum (s : List Byte) : Nat := (s.map BitVec.toNat).sum

/-- `CKSUM(s)` (42_trailer_generator.md R190): the two's complement of the low 8 bits of the byte sum. -/
def cksum (s : List Byte) : Byte := BitVec.ofNat 8 (256 - byteSum s % 256)

/-- One of the eight shifts of `crc_step` (42_trailer_generator.md R191). -/
def crcShift (poly acc : Word16) : Word16 :=
  if acc.getLsbD 15 then (acc <<< 1) ^^^ poly else acc <<< 1

/-- `crc_step(acc, b)` (42_trailer_generator.md R191): `b` enters at bits 15:8, then eight shifts. -/
def crcStep (poly acc : Word16) (b : Byte) : Word16 :=
  (List.range 8).foldl (fun a _ => crcShift poly a) (acc ^^^ (b.setWidth 16 <<< 8))

/-- `CRC16(s)` (42_trailer_generator.md R191). -/
def crc16 (c : Cfg) (s : List Byte) : Word16 := s.foldl (crcStep c.crcPoly) c.crcInit

end Sys2Proof.Machine
end

