-- ==== Sys2Proof/Machine/Frame.lean ====
section
/-! DEFINITION. The framer FRM as pure functions: the frame encoder (40_framer_encode.md R140), one parser step
over the accumulation buffer (41_framer_decode.md R162 to R170), and the layout of a secure payload region
(30_encoding.md R112). -/

namespace Sys2Proof.Machine

/-- The bytes a trailer covers (30_encoding.md R113). -/
def covered (addr ctrl : Byte) (payload : List Byte) : List Byte := addr :: ctrl :: payload

/-- START to CONTROL of a frame whose length field is `len` (30_encoding.md R101, R103, R106). -/
def frameHeader (c : Cfg) (addr ctrl : Byte) (len : Nat) : List Byte :=
  [c.som, addr] ++ le16 (lenWord len) ++ [ctrl]

/-- A frame in format FRAME.CK (30_encoding.md R101, R110). -/
def frameCkBytes (c : Cfg) (addr ctrl : Byte) (payload : List Byte) : List Byte :=
  frameHeader c addr ctrl (hdrLen + payload.length + 1) ++ payload ++ [cksum (covered addr ctrl payload)]

/-- A frame in format FRAME.CRC (30_encoding.md R101, R111: low byte of the CRC first). -/
def frameCrcBytes (c : Cfg) (addr ctrl : Byte) (payload : List Byte) : List Byte :=
  frameHeader c addr ctrl (hdrLen + payload.length + 2) ++ payload ++
    le16 (crc16 c (covered addr ctrl payload))

/-- `encode(a, c, p)` (40_framer_encode.md R140): `CONTROL[2]` alone selects the format (30_encoding.md R102). R140
leaves it undefined for a payload above MAX_PAYLOAD(c): DESIGN CHOICE (log entry 11), the same layout there, LEN cut to
16 bits. ENCODE refuses before it gets there (R141), and such a frame row is not well formed. -/
def encodeFrame (c : Cfg) (addr ctrl : Byte) (payload : List Byte) : List Byte :=
  if controlCrc ctrl then frameCrcBytes c addr ctrl payload else frameCkBytes c addr ctrl payload

/-- `resync_scan` (41_framer_decode.md R162): drop bytes until the buffer is empty or starts with `SOM`. -/
def resyncScan (c : Cfg) (buf : List Byte) : List Byte := buf.dropWhile (· != c.som)

/-- What one DECODE finds (41_framer_decode.md R161); each outcome but the first says what it leaves in RXBUF. -/
inductive Parsed where
  /-- `NeedMoreBytes`. -/
  | needMore
  /-- `InvalidStartMarker`. -/
  | badStart (left : List Byte)
  /-- `LengthMismatch`. -/
  | badLength (left : List Byte)
  /-- `TrailerMismatch`. -/
  | badTrailer (left : List Byte)
  /-- `Frame`. -/
  | frame (addr ctrl : Byte) (payload left : List Byte)
deriving DecidableEq, Repr

/-- Step 8 of DECODE (41_framer_decode.md R163): does the trailer at the end of the first `len` bytes verify? -/
def trailerGood (c : Cfg) (buf : List Byte) (len : Nat) : Bool :=
  let ctrl := byteAt buf 4
  let cov := covered (byteAt buf 1) ctrl (slice buf hdrLen (len - hdrLen - trailerLen ctrl))
  if controlCrc ctrl then
    (crc16 c cov).toNat == fromLe16 (byteAt buf (len - 2)) (byteAt buf (len - 1))
  else cksum cov == byteAt buf (len - 1)

/-- Steps 5 to 9 of DECODE, once the length `len` has passed the range check (41_framer_decode.md R163). -/
def parseBody (c : Cfg) (buf : List Byte) (len : Nat) : Parsed :=
  let ctrl := byteAt buf 4
  if buf.length < hdrLen then .needMore
  else if len < hdrLen + trailerLen ctrl then .badLength (resyncScan c (buf.drop 1))
  else if buf.length < len then .needMore
  else if trailerGood c buf len then
    .frame (byteAt buf 1) ctrl (slice buf hdrLen (len - hdrLen - trailerLen ctrl)) (buf.drop len)
  else .badTrailer (resyncScan c (buf.drop len))

/-- One parser step on the accumulation buffer, in the order of 41_framer_decode.md R163. What `ism` leaves is what
`resync_scan` leaves: the buffer from its first `SOM` on (R164). -/
def parseFrame (c : Cfg) (buf : List Byte) : Parsed :=
  if buf.length = 0 then .needMore
  else if byteAt buf 0 != c.som then .badStart (resyncScan c buf)
  else if buf.length < 4 then .needMore
  else
    let len := fromLe16 (byteAt buf 2) (byteAt buf 3)
    if len < 6 || decide (c.maxFrameLen < len) then .badLength (resyncScan c (buf.drop 1))
    else parseBody c buf len

/-- A secure payload region, `le32(SEQ) ++ CT ++ TAG` (30_encoding.md R112). -/
def sprBytes (seq : Word32) (ct tag : List Byte) : List Byte := le32 seq ++ ct ++ tag

/-- SEQ of a secure payload region (30_encoding.md R112, 44_secure_transport.md R244). -/
def sprSeq (bytes : List Byte) : Word32 := fromLe32 bytes

/-- CT of a secure payload region of at least `SEC_OVH` bytes (30_encoding.md R112). -/
def sprCt (c : Cfg) (bytes : List Byte) : List Byte := slice bytes c.seqLen (bytes.length - secOvh c)

/-- TAG of a secure payload region (30_encoding.md R112). -/
def sprTag (c : Cfg) (bytes : List Byte) : List Byte := bytes.drop (bytes.length - c.tagLen)

end Sys2Proof.Machine
end

