-- ==== Sys2Proof/Syntax.lean ====
section
/-! DEFINITION. The instructions: one constructor for each of the 46 rows of opcode_table.json, in the table's
order (43 command rows, 30_encoding.md R121; 3 wire-format rows, R101, R102, R112), and `Encoded`, what an
instruction looks like at the port it is offered to. -/

namespace Sys2Proof

/-- One row of opcode_table.json each. Format I commands carry their 8-bit operand `imm` (30_encoding.md R100);
format N commands carry nothing, since the block ignores `W[7:0]` (R120). The last three are the wire formats. -/
inductive Instr where
  | nop
  | reset
  | rdflags
  | clrflags
  | push (imm : Byte)
  | iclr
  | pop
  | olenl
  | olenh
  | xfer
  | orew
  | setaddr (imm : Byte)
  | setctrl (imm : Byte)
  | encode
  | decode
  | getaddr
  | getctrl
  | rxflush
  | fstat
  | cksinit
  | cksupd (imm : Byte)
  | cksget
  | crcinit
  | crcupd (imm : Byte)
  | crcgetl
  | crcgeth
  | cksbuf
  | crcbuf
  | scsel (imm : Byte)
  | scstat
  | sckey
  | scclr
  | scinit
  | scchal
  | scvrfy
  | scrvfy
  | scfin (imm : Byte)
  | sctmo
  | scretry
  | scwrap
  | scunwrap
  | scadmit
  | scfails
  /-- Row FRAME.CK: a frame with a checksum trailer, on the receive line (30_encoding.md R101, R102). START, LEN
  and the trailer are functions of the other fields, so they are not operands. -/
  | frameCk (addr ctrl : Byte) (payload : List Byte)
  /-- Row FRAME.CRC: a frame with a CRC-16 trailer, on the receive line (30_encoding.md R101, R102). -/
  | frameCrc (addr ctrl : Byte) (payload : List Byte)
  /-- Row SPR: a secure payload region (30_encoding.md R112), offered to the operand buffer. -/
  | spr (seq : Word32) (ct tag : List Byte)
deriving DecidableEq, Repr

/-- An instruction as it stands at its port. -/
inductive Encoded where
  /-- A 16-bit command word at the command port (30_encoding.md R100). -/
  | command (w : Word16)
  /-- A run of bytes on the receive line, first byte first (30_encoding.md R126, the step line `rx BYTES`). -/
  | line (bytes : List Byte)
  /-- A run of bytes the host loads into the operand buffer (30_encoding.md R127, the line `LOAD b0 ... bk`). -/
  | region (bytes : List Byte)
deriving DecidableEq, Repr

end Sys2Proof
end

