-- ==== Sys2Proof/WellFormed.lean ====
section
/-! DEFINITION. When an instruction is well formed. Every command is: an 8-bit operand has no illegal value
(30_encoding.md R120; an index or a length that a command refuses is refused with a status when it runs). A wire
frame must have the trailer kind its CONTROL byte selects and a legal length (R102, R107); a secure payload region
must have a tag of TAG_LEN bytes and fit the buffers (R112). -/

namespace Sys2Proof

open Machine

/-- A FRAME.CK row: `CONTROL[2] = 0` and `n <= MAX_PAYLOAD` (30_encoding.md R101, R102, R107). -/
def wfFrameCk (c : Cfg) (ctrl : Byte) (payload : List Byte) : Bool :=
  !controlCrc ctrl && decide (payload.length + 6 ≤ c.maxFrameLen)

/-- A FRAME.CRC row: `CONTROL[2] = 1` and `n <= MAX_PAYLOAD` (30_encoding.md R101, R102, R107). -/
def wfFrameCrc (c : Cfg) (ctrl : Byte) (payload : List Byte) : Bool :=
  controlCrc ctrl && decide (payload.length + 7 ≤ c.maxFrameLen)

/-- An SPR row: a tag of `TAG_LEN` bytes, and the whole region fits `BUF_SIZE` (30_encoding.md R112). -/
def wfSpr (c : Cfg) (ct tag : List Byte) : Bool :=
  decide (tag.length = c.tagLen) && decide (ct.length + secOvh c ≤ c.bufSize)

/-- Well-formedness under a configuration. -/
def Instr.wf (c : Cfg) : Instr → Bool
  | .frameCk _ ctrl payload => wfFrameCk c ctrl payload
  | .frameCrc _ ctrl payload => wfFrameCrc c ctrl payload
  | .spr _ ct tag => wfSpr c ct tag
  | .nop | .reset | .rdflags | .clrflags | .push _ | .iclr | .pop | .olenl | .olenh | .xfer | .orew
  | .setaddr _ | .setctrl _ | .encode | .decode | .getaddr | .getctrl | .rxflush | .fstat
  | .cksinit | .cksupd _ | .cksget | .crcinit | .crcupd _ | .crcgetl | .crcgeth | .cksbuf | .crcbuf
  | .scsel _ | .scstat | .sckey | .scclr | .scinit | .scchal | .scvrfy | .scrvfy | .scfin _ | .sctmo
  | .scretry | .scwrap | .scunwrap | .scadmit | .scfails => true

end Sys2Proof
end

