-- ==== Sys2Proof/Decode.lean ====
section
/-! DEFINITION. Decoding and encoding. A command word is decoded by its opcode byte alone (30_encoding.md R100,
R121, R122); a run of bytes on the receive line by the framer's own rules (R101, R102); a run of bytes loaded into
the operand buffer by the layout of R112. Decoding is total and rejects by name. -/

namespace Sys2Proof

open Machine

/-- Why an item at a port is no instruction. -/
inductive DecodeError where
  /-- The opcode is not in the opcode map (30_encoding.md R122). -/
  | unassignedOpcode (op : Byte)
  /-- The bytes on the line are not exactly one well-formed frame (30_encoding.md R101, R102). -/
  | notOneFrame
  /-- The bytes are too few for SEQ and TAG (30_encoding.md R112). -/
  | shortRegion
deriving DecidableEq, Repr

/-- The opcode map of 30_encoding.md R121, as a number `op` and the immediate of the word. -/
def decodeOpcode (op : Nat) (imm : Byte) : Option Instr :=
  match op with
  | 0x00 => some .nop
  | 0x01 => some .reset
  | 0x03 => some .rdflags
  | 0x04 => some .clrflags
  | 0x10 => some (.push imm)
  | 0x11 => some .iclr
  | 0x12 => some .pop
  | 0x13 => some .olenl
  | 0x14 => some .olenh
  | 0x15 => some .xfer
  | 0x16 => some .orew
  | 0x20 => some (.setaddr imm)
  | 0x21 => some (.setctrl imm)
  | 0x22 => some .encode
  | 0x23 => some .decode
  | 0x24 => some .getaddr
  | 0x25 => some .getctrl
  | 0x26 => some .rxflush
  | 0x27 => some .fstat
  | 0x30 => some .cksinit
  | 0x31 => some (.cksupd imm)
  | 0x32 => some .cksget
  | 0x33 => some .crcinit
  | 0x34 => some (.crcupd imm)
  | 0x35 => some .crcgetl
  | 0x36 => some .crcgeth
  | 0x37 => some .cksbuf
  | 0x38 => some .crcbuf
  | 0x40 => some (.scsel imm)
  | 0x41 => some .scstat
  | 0x42 => some .sckey
  | 0x43 => some .scclr
  | 0x44 => some .scinit
  | 0x45 => some .scchal
  | 0x46 => some .scvrfy
  | 0x47 => some .scrvfy
  | 0x48 => some (.scfin imm)
  | 0x49 => some .sctmo
  | 0x4A => some .scretry
  | 0x4B => some .scwrap
  | 0x4C => some .scunwrap
  | 0x4D => some .scadmit
  | 0x4E => some .scfails
  | _ => none

/-- Decoding of a command word (30_encoding.md R100, R121, R122). -/
def decodeCommand (w : Word16) : Except DecodeError Instr :=
  match decodeOpcode (opcodeOf w).toNat (immOf w) with
  | some i => .ok i
  | none => .error (.unassignedOpcode (opcodeOf w))

/-- Decoding of a run of bytes on the receive line: exactly one frame that the parser would deliver
(30_encoding.md R101, R102; 41_framer_decode.md R163). -/
def decodeLine (c : Cfg) (bytes : List Byte) : Except DecodeError Instr :=
  match parseFrame c bytes with
  | .frame addr ctrl payload [] =>
    if controlCrc ctrl then .ok (.frameCrc addr ctrl payload) else .ok (.frameCk addr ctrl payload)
  | _ => .error .notOneFrame

/-- Decoding of a run of bytes loaded into the operand buffer, as a secure payload region (30_encoding.md R112). -/
def decodeRegion (c : Cfg) (bytes : List Byte) : Except DecodeError Instr :=
  if bytes.length < secOvh c then .error .shortRegion
  else .ok (.spr (sprSeq bytes) (sprCt c bytes) (sprTag c bytes))

/-- Decoding of an item at its port. -/
def decodeItem (c : Cfg) : Encoded → Except DecodeError Instr
  | .command w => decodeCommand w
  | .line bytes => decodeLine c bytes
  | .region bytes => decodeRegion c bytes

/-- A command word (30_encoding.md R100). -/
def commandWord (op imm : Byte) : Encoded := .command (word16 op imm)

/-- Encoding: what the instruction looks like at its port. The opcodes are those of 30_encoding.md R121; the byte
that format N ignores is written 0x00 (R100). -/
def encodeItem (c : Cfg) : Instr → Encoded
  | .nop => commandWord 0x00#8 0#8
  | .reset => commandWord 0x01#8 0#8
  | .rdflags => commandWord 0x03#8 0#8
  | .clrflags => commandWord 0x04#8 0#8
  | .push imm => commandWord 0x10#8 imm
  | .iclr => commandWord 0x11#8 0#8
  | .pop => commandWord 0x12#8 0#8
  | .olenl => commandWord 0x13#8 0#8
  | .olenh => commandWord 0x14#8 0#8
  | .xfer => commandWord 0x15#8 0#8
  | .orew => commandWord 0x16#8 0#8
  | .setaddr imm => commandWord 0x20#8 imm
  | .setctrl imm => commandWord 0x21#8 imm
  | .encode => commandWord 0x22#8 0#8
  | .decode => commandWord 0x23#8 0#8
  | .getaddr => commandWord 0x24#8 0#8
  | .getctrl => commandWord 0x25#8 0#8
  | .rxflush => commandWord 0x26#8 0#8
  | .fstat => commandWord 0x27#8 0#8
  | .cksinit => commandWord 0x30#8 0#8
  | .cksupd imm => commandWord 0x31#8 imm
  | .cksget => commandWord 0x32#8 0#8
  | .crcinit => commandWord 0x33#8 0#8
  | .crcupd imm => commandWord 0x34#8 imm
  | .crcgetl => commandWord 0x35#8 0#8
  | .crcgeth => commandWord 0x36#8 0#8
  | .cksbuf => commandWord 0x37#8 0#8
  | .crcbuf => commandWord 0x38#8 0#8
  | .scsel imm => commandWord 0x40#8 imm
  | .scstat => commandWord 0x41#8 0#8
  | .sckey => commandWord 0x42#8 0#8
  | .scclr => commandWord 0x43#8 0#8
  | .scinit => commandWord 0x44#8 0#8
  | .scchal => commandWord 0x45#8 0#8
  | .scvrfy => commandWord 0x46#8 0#8
  | .scrvfy => commandWord 0x47#8 0#8
  | .scfin imm => commandWord 0x48#8 imm
  | .sctmo => commandWord 0x49#8 0#8
  | .scretry => commandWord 0x4A#8 0#8
  | .scwrap => commandWord 0x4B#8 0#8
  | .scunwrap => commandWord 0x4C#8 0#8
  | .scadmit => commandWord 0x4D#8 0#8
  | .scfails => commandWord 0x4E#8 0#8
  | .frameCk addr ctrl payload => .line (frameCkBytes c addr ctrl payload)
  | .frameCrc addr ctrl payload => .line (frameCrcBytes c addr ctrl payload)
  | .spr seq ct tag => .region (sprBytes seq ct tag)

/-- The words of a well-formed instruction under the default configuration. -/
def encode (i : Instr) : Encoded := encodeItem .default i

/-- The `n` bytes of a number, least significant byte first. -/
def bytesOfNat : Nat → Nat → List Byte
  | 0, _ => []
  | n + 1, w => BitVec.ofNat 8 w :: bytesOfNat n (w / 256)

/-- The item that an instruction of `nbits` bits `w` is: a command word is 16 bits wide (30_encoding.md R100); what
is wider is a run of bytes, a frame where it is one, else a secure payload region. -/
def itemOfBits (c : Cfg) (nbits w : Nat) : Encoded :=
  if nbits ≤ 16 then .command (BitVec.ofNat 16 w)
  else
    let bytes := bytesOfNat (nbits / 8) w
    match decodeLine c bytes with
    | .ok _ => .line bytes
    | .error _ => .region bytes

/-- The instruction the decoder reads from the `nbits` bits `w`, numbered as opcode_table.json numbers them. -/
def decodeTableWord (nbits w : Nat) : Option Instr :=
  match decodeItem .default (itemOfBits .default nbits w) with
  | .ok i => some i
  | .error _ => none

end Sys2Proof
end

