-- ==== Sys2Proof/Machine/State.lean ====
section
/-! DEFINITION. The state of the block (10_state.md R20): five operand registers, the flags register, two
accumulators, the four buffers, the secure-channel contexts. Beside it stand the configuration, which no step
changes, and the environment: what the other agents and the host's port hold (00_scope.md R5, 10_state.md R56). -/

namespace Sys2Proof.Machine

/-- `SC[c].state` (10_state.md R41); its 2-bit codes are in Machine/Flags.lean. -/
inductive ScState where
  | inactive
  | negotiating
  | active
  | failed
deriving DecidableEq, Repr

/-- `SC[c].role` (10_state.md R42). -/
inductive Role where
  | initiator
  | responder
deriving DecidableEq, Repr

/-- `SC[c].phase` (10_state.md R43). -/
inductive Phase where
  /-- Code 0: the context is not Negotiating. -/
  | idle
  /-- Code 1: the initiator waits for M2. -/
  | initAwaitReply
  /-- Code 2: the initiator waits for the responder's verdict. -/
  | initAwaitAck
  /-- Code 3: the responder waits for M3. -/
  | respAwaitVerify
deriving DecidableEq, Repr

/-- One secure-channel context `SC[c]` (10_state.md R40 to R49). -/
structure Context where
  /-- R41. -/
  state : ScState
  /-- R42. -/
  role : Role
  /-- R43. -/
  phase : Phase
  /-- R44: `KEY_LEN` bytes. -/
  psk : List Byte
  /-- R44. -/
  pskValid : Bool
  /-- R45: `NONCE_LEN` bytes. -/
  na : List Byte
  /-- R45: `NONCE_LEN` bytes. -/
  nb : List Byte
  /-- R46: `KEY_LEN` bytes. -/
  kenc : List Byte
  /-- R46: `KEY_LEN` bytes. -/
  kmac : List Byte
  /-- R47. -/
  seqTx : Word32
  /-- R48. -/
  seqRx : Word32
  /-- R49. -/
  fails : Byte
deriving DecidableEq, Repr

/-- A context at its reset value (10_state.md R60). -/
def Context.reset (c : Cfg) : Context where
  state := .inactive
  role := .initiator
  phase := .idle
  psk := zeroBytes c.keyLen
  pskValid := false
  na := zeroBytes c.nonceLen
  nb := zeroBytes c.nonceLen
  kenc := zeroBytes c.keyLen
  kmac := zeroBytes c.keyLen
  seqTx := 0#32
  seqRx := 0#32
  fails := 0#8

/-- A step that an agent takes (00_scope.md R4, R5). -/
inductive Event where
  /-- The host issues a command word, or a wire-format item is offered to its port (log entry 3). -/
  | item (e : Encoded)
  /-- The receive channel offers one byte (41_framer_decode.md R160). -/
  | rx (b : Byte)
  /-- The transmit channel takes one byte (40_framer_encode.md R147). -/
  | tx
  /-- The hardware reset input acts (70_reset_and_hazards.md R380). -/
  | hwReset
deriving DecidableEq, Repr

/-- What stands outside the block and is the MODEL's own (10_state.md R56; log entries 1, 2 and 5): which agent
moves next and with what, the entropy input, the response port, and the bytes the transport has taken. -/
structure Env where
  /-- The steps the agents take, the next one first: any list, so any interleaving (20_memory.md R79). -/
  events : List Event
  /-- The bytes the entropy source has ready for `draw`, the next one first (00_scope.md R11). -/
  entropy : List Byte
  /-- How many bytes beyond those have been drawn: the index of the next free value `Config.entropyByte`. -/
  draws : Nat
  /-- The response word of the last command (30_encoding.md R100): status in bits 15:8, data in bits 7:0. -/
  resp : Option Word16
  /-- The bytes the transmit channel has taken, the first one first (40_framer_encode.md R147). -/
  wire : List Byte
deriving DecidableEq, Repr

/-- The machine. Every field from `txaddr` to `sc` is a piece of state of 10_state.md R20; a buffer is the list of
its valid bytes (93_implementation_defined.md U14), so `ILEN`, `OLEN`, `RXLEN` and `TXCNT` are the lengths. -/
structure State where
  /-- The configuration record (00_scope.md R8), which no step changes (10_state.md R20; log entry 4). -/
  cfg : Cfg
  /-- `TXADDR` (10_state.md R23). -/
  txaddr : Byte
  /-- `TXCTRL` (10_state.md R24). -/
  txctrl : Byte
  /-- `RXADDR` (10_state.md R25). -/
  rxaddr : Byte
  /-- `RXCTRL` (10_state.md R26). -/
  rxctrl : Byte
  /-- `CTX` (10_state.md R27). -/
  ctx : Byte
  /-- `EFLAGS` (10_state.md R28). -/
  eflags : Byte
  /-- `CKSACC` (10_state.md R29). -/
  cksacc : Byte
  /-- `CRCACC` (10_state.md R30). -/
  crcacc : Word16
  /-- `IBUF[0..ILEN-1]` (10_state.md R31). -/
  ibuf : List Byte
  /-- `OBUF[0..OLEN-1]` (10_state.md R32). -/
  obuf : List Byte
  /-- `OPTR` (10_state.md R32). -/
  optr : Word16
  /-- `RXBUF`, the oldest byte first (10_state.md R33). -/
  rxbuf : List Byte
  /-- `TXFIFO`, the next byte to leave first (10_state.md R34). -/
  txfifo : List Byte
  /-- `SC[0] .. SC[N_CTX-1]` (10_state.md R40). -/
  sc : List Context
  /-- The environment. -/
  env : Env
deriving DecidableEq, Repr

/-- Why the machine stops: only ever because the environment asks for a step that is not enabled. -/
inductive Fault where
  /-- Raised by an RXCH step, or by a frame on the receive line, for which RXBUF has no room: `stuck`, the step is
  not enabled (93_implementation_defined.md U19, 20_memory.md R81). Safe: the block does not take the step. -/
  | rxchNotEnabled
  /-- Raised by a TXCH step with TXFIFO empty: `stuck`, the step is not enabled (93_implementation_defined.md U19,
  40_framer_encode.md R147). Safe: the block does not take the step. -/
  | txchNotEnabled
deriving DecidableEq, Repr

/-- Why an instruction has no meaning here. -/
inductive Refusal where
  /-- Answered by an arm of `exec` whose instruction has no meaning yet. Safe: nothing is claimed of it. No arm
  answers it now. -/
  | notModelled (mnemonic : String)
deriving DecidableEq, Repr

/-- An environment in which nothing has happened and nothing is going to. -/
def Env.silent : Env where
  events := []
  entropy := []
  draws := 0
  resp := none
  wire := []

/-- The machine right after reset, with the default configuration (10_state.md R60) and a silent environment. -/
def State.reset : State where
  cfg := .default
  txaddr := 0#8
  txctrl := 0#8
  rxaddr := 0#8
  rxctrl := 0#8
  ctx := 0#8
  eflags := 0#8
  cksacc := 0#8
  crcacc := Cfg.default.crcInit
  ibuf := []
  obuf := []
  optr := 0#16
  rxbuf := []
  txfifo := []
  sc := List.replicate Cfg.default.nCtx (Context.reset .default)
  env := .silent

end Sys2Proof.Machine
end

