-- ==== Sys2Proof/Machine/Flags.lean ====
section
/-! DEFINITION. The status codes (60_exceptions.md R340), the EFLAGS bits (10_state.md R28), and the data bytes
with bit fields (30_encoding.md R118). -/

namespace Sys2Proof.Machine

/-- The status codes of 60_exceptions.md R340. -/
inductive Status where
  | ok
  | needMore
  | ism
  | len
  | trl
  | scState
  | scVerify
  | scTag
  | scSeq
  | scFormat
  | scExhausted
  | scNokey
  | scNoctx
  | opcode
  | overflow
  | underflow
  | txfull
  | ctx
  | arg
deriving DecidableEq, Repr

/-- The code of a status (60_exceptions.md R340). -/
def Status.code : Status → Byte
  | .ok => 0x00#8
  | .needMore => 0x01#8
  | .ism => 0x10#8
  | .len => 0x11#8
  | .trl => 0x12#8
  | .scState => 0x20#8
  | .scVerify => 0x21#8
  | .scTag => 0x22#8
  | .scSeq => 0x23#8
  | .scFormat => 0x24#8
  | .scExhausted => 0x25#8
  | .scNokey => 0x26#8
  | .scNoctx => 0x27#8
  | .opcode => 0x30#8
  | .overflow => 0x31#8
  | .underflow => 0x32#8
  | .txfull => 0x33#8
  | .ctx => 0x34#8
  | .arg => 0x35#8

/-- EFLAGS.SC, bit 3 (10_state.md R28). -/
def flagSc : Byte := 0x08#8

/-- EFLAGS.CMD, bit 4 (10_state.md R28). -/
def flagCmd : Byte := 0x10#8

/-- The EFLAGS bit that raising a status sets (10_state.md R28); OK and NEED_MORE set none. -/
def Status.flag : Status → Byte
  | .ok | .needMore => 0x00#8
  | .ism => 0x01#8
  | .len => 0x02#8
  | .trl => 0x04#8
  | .scState | .scVerify | .scTag | .scSeq | .scFormat | .scExhausted | .scNokey | .scNoctx => flagSc
  | .opcode | .overflow | .underflow | .txfull | .ctx | .arg => flagCmd

/-- The 2-bit code of `SC[c].state` (10_state.md R41). -/
def ScState.code : ScState → BitVec 2
  | .inactive => 0#2
  | .negotiating => 1#2
  | .active => 2#2
  | .failed => 3#2

/-- The 1-bit code of `SC[c].role` (10_state.md R42). -/
def Role.code : Role → BitVec 1
  | .initiator => 0#1
  | .responder => 1#1

/-- The 2-bit code of `SC[c].phase` (10_state.md R43). -/
def Phase.code : Phase → BitVec 2
  | .idle => 0#2
  | .initAwaitReply => 1#2
  | .initAwaitAck => 2#2
  | .respAwaitVerify => 3#2

/-- The data byte of SCSTAT (30_encoding.md R118, 43_secure_handshake.md R229). -/
def scstatByte (c : Context) : Byte :=
  (BitVec.ofBool c.pskValid).setWidth 8 <<< 5 ||| c.phase.code.setWidth 8 <<< 3 |||
    c.role.code.setWidth 8 <<< 2 ||| c.state.code.setWidth 8

/-- The data byte of FSTAT (30_encoding.md R118, 46_host_ops.md R316). -/
def fstatByte (s : State) : Byte :=
  (if s.rxbuf.length = 0 then 0x01#8 else 0#8) |||
  (if s.rxbuf.length = s.cfg.rxbufSize then 0x02#8 else 0#8) |||
  (if s.txfifo.length = 0 then 0x04#8 else 0#8) |||
  (if s.cfg.txfifoSize < s.txfifo.length + s.cfg.maxFrameLen then 0x08#8 else 0#8)

end Sys2Proof.Machine
end

