-- ==== Sys2Proof/Machine/Aes.lean ====
section
/-! DEFINITION. The two standard algorithms of the reference suite: AES-128 encryption of one block
(45_cipher_suite.md R271 to R273) and AES-CMAC (R274). -/

namespace Sys2Proof.Machine

/-- `SBOX`, row `v[7:4]`, column `v[3:0]` (45_cipher_suite.md R272). -/
def sboxRows : List (List Byte) :=
  [[0x63#8, 0x7C#8, 0x77#8, 0x7B#8, 0xF2#8, 0x6B#8, 0x6F#8, 0xC5#8, 0x30#8, 0x01#8, 0x67#8, 0x2B#8, 0xFE#8, 0xD7#8, 0xAB#8, 0x76#8],
   [0xCA#8, 0x82#8, 0xC9#8, 0x7D#8, 0xFA#8, 0x59#8, 0x47#8, 0xF0#8, 0xAD#8, 0xD4#8, 0xA2#8, 0xAF#8, 0x9C#8, 0xA4#8, 0x72#8, 0xC0#8],
   [0xB7#8, 0xFD#8, 0x93#8, 0x26#8, 0x36#8, 0x3F#8, 0xF7#8, 0xCC#8, 0x34#8, 0xA5#8, 0xE5#8, 0xF1#8, 0x71#8, 0xD8#8, 0x31#8, 0x15#8],
   [0x04#8, 0xC7#8, 0x23#8, 0xC3#8, 0x18#8, 0x96#8, 0x05#8, 0x9A#8, 0x07#8, 0x12#8, 0x80#8, 0xE2#8, 0xEB#8, 0x27#8, 0xB2#8, 0x75#8],
   [0x09#8, 0x83#8, 0x2C#8, 0x1A#8, 0x1B#8, 0x6E#8, 0x5A#8, 0xA0#8, 0x52#8, 0x3B#8, 0xD6#8, 0xB3#8, 0x29#8, 0xE3#8, 0x2F#8, 0x84#8],
   [0x53#8, 0xD1#8, 0x00#8, 0xED#8, 0x20#8, 0xFC#8, 0xB1#8, 0x5B#8, 0x6A#8, 0xCB#8, 0xBE#8, 0x39#8, 0x4A#8, 0x4C#8, 0x58#8, 0xCF#8],
   [0xD0#8, 0xEF#8, 0xAA#8, 0xFB#8, 0x43#8, 0x4D#8, 0x33#8, 0x85#8, 0x45#8, 0xF9#8, 0x02#8, 0x7F#8, 0x50#8, 0x3C#8, 0x9F#8, 0xA8#8],
   [0x51#8, 0xA3#8, 0x40#8, 0x8F#8, 0x92#8, 0x9D#8, 0x38#8, 0xF5#8, 0xBC#8, 0xB6#8, 0xDA#8, 0x21#8, 0x10#8, 0xFF#8, 0xF3#8, 0xD2#8],
   [0xCD#8, 0x0C#8, 0x13#8, 0xEC#8, 0x5F#8, 0x97#8, 0x44#8, 0x17#8, 0xC4#8, 0xA7#8, 0x7E#8, 0x3D#8, 0x64#8, 0x5D#8, 0x19#8, 0x73#8],
   [0x60#8, 0x81#8, 0x4F#8, 0xDC#8, 0x22#8, 0x2A#8, 0x90#8, 0x88#8, 0x46#8, 0xEE#8, 0xB8#8, 0x14#8, 0xDE#8, 0x5E#8, 0x0B#8, 0xDB#8],
   [0xE0#8, 0x32#8, 0x3A#8, 0x0A#8, 0x49#8, 0x06#8, 0x24#8, 0x5C#8, 0xC2#8, 0xD3#8, 0xAC#8, 0x62#8, 0x91#8, 0x95#8, 0xE4#8, 0x79#8],
   [0xE7#8, 0xC8#8, 0x37#8, 0x6D#8, 0x8D#8, 0xD5#8, 0x4E#8, 0xA9#8, 0x6C#8, 0x56#8, 0xF4#8, 0xEA#8, 0x65#8, 0x7A#8, 0xAE#8, 0x08#8],
   [0xBA#8, 0x78#8, 0x25#8, 0x2E#8, 0x1C#8, 0xA6#8, 0xB4#8, 0xC6#8, 0xE8#8, 0xDD#8, 0x74#8, 0x1F#8, 0x4B#8, 0xBD#8, 0x8B#8, 0x8A#8],
   [0x70#8, 0x3E#8, 0xB5#8, 0x66#8, 0x48#8, 0x03#8, 0xF6#8, 0x0E#8, 0x61#8, 0x35#8, 0x57#8, 0xB9#8, 0x86#8, 0xC1#8, 0x1D#8, 0x9E#8],
   [0xE1#8, 0xF8#8, 0x98#8, 0x11#8, 0x69#8, 0xD9#8, 0x8E#8, 0x94#8, 0x9B#8, 0x1E#8, 0x87#8, 0xE9#8, 0xCE#8, 0x55#8, 0x28#8, 0xDF#8],
   [0x8C#8, 0xA1#8, 0x89#8, 0x0D#8, 0xBF#8, 0xE6#8, 0x42#8, 0x68#8, 0x41#8, 0x99#8, 0x2D#8, 0x0F#8, 0xB0#8, 0x54#8, 0xBB#8, 0x16#8]]

/-- `SBOX[v]` (45_cipher_suite.md R272). -/
def sbox (v : Byte) : Byte := byteAt (sboxRows.getD (v >>> 4).toNat []) (v &&& 0x0F#8).toNat

/-- `2*v` in GF(2^8) (45_cipher_suite.md R271). -/
def xtime (v : Byte) : Byte := (v <<< 1) ^^^ (if v.getLsbD 7 then 0x1B#8 else 0#8)

/-- `3*v` in GF(2^8) (45_cipher_suite.md R271). -/
def times3 (v : Byte) : Byte := xtime v ^^^ v

/-- Exclusive or of two 16-byte blocks. -/
def xorBlock (a b : List Byte) : List Byte := (List.range 16).map fun i => byteAt a i ^^^ byteAt b i

/-- `SubBytes` (45_cipher_suite.md R271). -/
def subBytes (s : List Byte) : List Byte := s.map sbox

/-- `ShiftRows`: `s'[4c+r] = s[4*((c+r) mod 4) + r]` (45_cipher_suite.md R271). -/
def shiftRows (s : List Byte) : List Byte :=
  (List.range 16).map fun i => byteAt s (4 * ((i / 4 + i % 4) % 4) + i % 4)

/-- `MixColumns` on one column (45_cipher_suite.md R271). -/
def mixColumn (a0 a1 a2 a3 : Byte) : List Byte :=
  [xtime a0 ^^^ times3 a1 ^^^ a2 ^^^ a3,
   a0 ^^^ xtime a1 ^^^ times3 a2 ^^^ a3,
   a0 ^^^ a1 ^^^ xtime a2 ^^^ times3 a3,
   times3 a0 ^^^ a1 ^^^ a2 ^^^ xtime a3]

/-- `MixColumns` (45_cipher_suite.md R271). -/
def mixColumns (s : List Byte) : List Byte :=
  (List.range 4).flatMap fun c =>
    mixColumn (byteAt s (4 * c)) (byteAt s (4 * c + 1)) (byteAt s (4 * c + 2)) (byteAt s (4 * c + 3))

/-- `RCON[1..10]` (45_cipher_suite.md R273). -/
def rconTable : List Byte :=
  [0x01#8, 0x02#8, 0x04#8, 0x08#8, 0x10#8, 0x20#8, 0x40#8, 0x80#8, 0x1B#8, 0x36#8]

/-- RotWord, SubWord and RCON on the word `t` (45_cipher_suite.md R273, the case `i mod 4 = 0`). -/
def keyWordCore (rcon : Byte) (t : List Byte) : List Byte :=
  [sbox (byteAt t 1) ^^^ rcon, sbox (byteAt t 2), sbox (byteAt t 3), sbox (byteAt t 0)]

/-- The round key after `rk`: the four words `w[i] = w[i-4] xor t` with `i mod 4 = 0, 1, 2, 3`
(45_cipher_suite.md R273). -/
def nextRoundKey (rcon : Byte) (rk : List Byte) : List Byte :=
  let w0 := xorBytes (slice rk 0 4) (keyWordCore rcon (slice rk 12 4))
  let w1 := xorBytes (slice rk 4 4) w0
  let w2 := xorBytes (slice rk 8 4) w1
  let w3 := xorBytes (slice rk 12 4) w2
  w0 ++ w1 ++ w2 ++ w3

/-- One of the rounds 1 to 9 (45_cipher_suite.md R271). -/
def aesRound (rk s : List Byte) : List Byte := xorBlock (mixColumns (shiftRows (subBytes s))) rk

/-- The last round, without `MixColumns` (45_cipher_suite.md R271). -/
def aesLastRound (rk s : List Byte) : List Byte := xorBlock (shiftRows (subBytes s)) rk

/-- The rounds for the round constants that are left, expanding the key on the way; the last constant belongs to
the last round (45_cipher_suite.md R271, R273). -/
def aesRounds : List Byte → List Byte → List Byte → List Byte
  | [], _, s => s
  | [rcon], rk, s => aesLastRound (nextRoundKey rcon rk) s
  | rcon :: rest, rk, s =>
    let rk' := nextRoundKey rcon rk
    aesRounds rest rk' (aesRound rk' s)

/-- `E(k, b)`, AES-128 encryption of one block (45_cipher_suite.md R271). -/
def aesEncrypt (k b : List Byte) : List Byte := aesRounds rconTable k (xorBlock b k)

/-- A block as a 128-bit integer, `b[0]` the most significant byte (45_cipher_suite.md R274). -/
def fromBe128 (b : List Byte) : BitVec 128 :=
  b.foldl (fun v x => (v <<< 8) ||| x.setWidth 128) 0#128

/-- A 128-bit integer as a block, the most significant byte first (45_cipher_suite.md R274). -/
def toBe128 (v : BitVec 128) : List Byte :=
  (List.range 16).map fun i => (v >>> (8 * (15 - i))).setWidth 8

/-- `dbl(b)` (45_cipher_suite.md R274). -/
def dbl (b : List Byte) : List Byte :=
  let v := fromBe128 b
  toBe128 ((v <<< 1) ^^^ (if v.getLsbD 127 then 0x87#128 else 0#128))

/-- The number of blocks of a message of `len` bytes (45_cipher_suite.md R274). -/
def cmacBlocks (len : Nat) : Nat := max 1 ((len + 15) / 16)

/-- The final block of `CM(k, m)`: complete and masked with `K1`, or padded and masked with `K2`
(45_cipher_suite.md R274). -/
def cmacLast (k m : List Byte) : List Byte :=
  let k1 := dbl (aesEncrypt k (zeroBytes 16))
  let r := m.drop (16 * (cmacBlocks m.length - 1))
  if 0 < m.length ∧ m.length % 16 = 0 then xorBlock r k1
  else xorBlock (r ++ [0x80#8] ++ zeroBytes (15 - r.length)) (dbl k1)

/-- `CM(k, m)`, AES-CMAC with a full 16-byte result (45_cipher_suite.md R274). -/
def cmac (k m : List Byte) : List Byte :=
  let x := (List.range (cmacBlocks m.length - 1)).foldl
    (fun x i => aesEncrypt k (xorBlock x (slice m (16 * i) 16))) (zeroBytes 16)
  aesEncrypt k (xorBlock x (cmacLast k m))

end Sys2Proof.Machine
end

