-- ==== Sys2Proof/Machine/Suite.lean ====
section
/-! DEFINITION. The cipher suite: the record of seven functions (45_cipher_suite.md R260), the reference suite
(R270 to R277), the trivial suite (R266), and the suite that a table gives. -/

namespace Sys2Proof.Machine

/-- A cipher suite (45_cipher_suite.md R260). It is built from the configuration and is no part of `State`. -/
structure Suite where
  /-- `RESP(psk, na, nb)`. -/
  resp : List Byte → List Byte → List Byte → List Byte
  /-- `INITV(psk, na, nb)`. -/
  initv : List Byte → List Byte → List Byte → List Byte
  /-- `KDF_ENC(psk, na, nb)`. -/
  kdfEnc : List Byte → List Byte → List Byte → List Byte
  /-- `KDF_MAC(psk, na, nb)`. -/
  kdfMac : List Byte → List Byte → List Byte → List Byte
  /-- `ENC(kenc, dir, seq, pt)`. -/
  enc : List Byte → BitVec 1 → Word32 → List Byte → List Byte
  /-- `DEC(kenc, dir, seq, ct)`. -/
  dec : List Byte → BitVec 1 → Word32 → List Byte → List Byte
  /-- `MAC(kmac, addr, ctrl, seq, pt)`. -/
  mac : List Byte → Byte → Byte → Word32 → List Byte → List Byte

/-- The laws of 45_cipher_suite.md R262 (inversion) and R263 (lengths) for the sizes of a configuration. -/
structure Suite.Lawful (S : Suite) (c : Cfg) : Prop where
  /-- R262. -/
  dec_enc : ∀ k d s p, S.dec k d s (S.enc k d s p) = p
  /-- R263. -/
  enc_length : ∀ k d s p, (S.enc k d s p).length = p.length
  /-- R263. -/
  dec_length : ∀ k d s p, (S.dec k d s p).length = p.length
  /-- R263 with R260. -/
  resp_length : ∀ k na nb, (S.resp k na nb).length = c.verifLen
  /-- R263 with R260. -/
  initv_length : ∀ k na nb, (S.initv k na nb).length = c.verifLen
  /-- R263 with R260. -/
  kdfEnc_length : ∀ k na nb, (S.kdfEnc k na nb).length = c.keyLen
  /-- R263 with R260. -/
  kdfMac_length : ∀ k na nb, (S.kdfMac k na nb).length = c.keyLen
  /-- R263 with R260. -/
  mac_length : ∀ k a x s p, (S.mac k a x s p).length = c.tagLen

/-- The counter block `CB(d, s, i)` (45_cipher_suite.md R277). -/
def counterBlock (dir : BitVec 1) (seq : Word32) (i : Nat) : List Byte :=
  [dir.setWidth 8] ++ zeroBytes 7 ++ le32 seq ++ le32 (BitVec.ofNat 32 i)

/-- The first `n` blocks of the keystream `KS(kenc, d, s)` (45_cipher_suite.md R277). -/
def keystream (kenc : List Byte) (dir : BitVec 1) (seq : Word32) (n : Nat) : List Byte :=
  (List.range n).flatMap fun i => aesEncrypt kenc (counterBlock dir seq i)

/-- `ENC` and `DEC` of the reference suite: exclusive or with the keystream (45_cipher_suite.md R270, R277). -/
def refCrypt (kenc : List Byte) (dir : BitVec 1) (seq : Word32) (text : List Byte) : List Byte :=
  xorBytes text (keystream kenc dir seq ((text.length + 15) / 16))

/-- The message whose CMAC is the tag (45_cipher_suite.md R276). -/
def tagMessage (addr ctrl : Byte) (seq : Word32) (pt : List Byte) : List Byte :=
  [addr, ctrl] ++ le32 seq ++ pt

/-- `SUITE_REF` (45_cipher_suite.md R270). -/
def suiteRef (c : Cfg) : Suite where
  resp psk na nb := cmac psk ([0x01#8] ++ na ++ nb)
  initv psk na nb := cmac psk ([0x02#8] ++ na ++ nb)
  kdfEnc psk na nb := cmac psk ([0x03#8] ++ na ++ nb)
  kdfMac psk na nb := cmac psk ([0x04#8] ++ na ++ nb)
  enc := refCrypt
  dec := refCrypt
  mac kmac addr ctrl seq pt := (cmac kmac (tagMessage addr ctrl seq pt)).take c.tagLen

/-- `SUITE_NULL` (45_cipher_suite.md R266). -/
def suiteNull (c : Cfg) : Suite where
  resp _ _ _ := zeroBytes c.verifLen
  initv _ _ _ := zeroBytes c.verifLen
  kdfEnc _ _ _ := zeroBytes c.keyLen
  kdfMac _ _ _ := zeroBytes c.keyLen
  enc _ _ _ pt := pt
  dec _ _ _ ct := ct
  mac _ _ _ _ _ := zeroBytes c.tagLen

/-- The first `n` bytes of a row's value, with bytes 0x00 where it is too short (45_cipher_suite.md R260, R263: the
result lengths are fixed). -/
def fitTo (n : Nat) (value : List Byte) : List Byte := (value ++ zeroBytes n).take n

/-- The value that rows give to a secret and two nonces, `n` bytes; 0x00 where no row does. -/
def nonceValue (rows : List NonceRow) (n : Nat) (psk na nb : List Byte) : List Byte :=
  match rows.find? fun r => r.psk = psk ∧ r.na = na ∧ r.nb = nb with
  | some r => fitTo n r.value
  | none => zeroBytes n

/-- The value that rows give to the arguments of `MAC`, `n` bytes; 0x00 where no row does. -/
def macValue (rows : List MacRow) (n : Nat) (kmac : List Byte) (addr ctrl : Byte) (seq : Word32) (pt : List Byte) :
    List Byte :=
  match rows.find? fun r => r.kmac = kmac ∧ r.addr = addr ∧ r.ctrl = ctrl ∧ r.seq = seq ∧ r.pt = pt with
  | some r => fitTo n r.value
  | none => zeroBytes n

/-- The exchange of one row. -/
def exchange (text : List Byte) (r : CipherRow) : List Byte :=
  if text = r.a then r.b else if text = r.b then r.a else text

/-- The exchanges under a key, a direction and a counter that are between texts of `m` bytes. -/
def cipherRows (rows : List CipherRow) (kenc : List Byte) (dir : BitVec 1) (seq : Word32) (m : Nat) : List CipherRow :=
  rows.filter fun r => r.kenc = kenc ∧ r.dir = dir ∧ r.seq = seq ∧ r.a.length = m ∧ r.b.length = m

/-- The suite that a table gives (45_cipher_suite.md R260 to R264; log entry 6). -/
def suiteTable (c : Cfg) (t : SuiteTable) : Suite where
  resp := nonceValue t.resp c.verifLen
  initv := nonceValue t.initv c.verifLen
  kdfEnc := nonceValue t.kdfEnc c.keyLen
  kdfMac := nonceValue t.kdfMac c.keyLen
  enc kenc dir seq pt := (cipherRows t.cipher kenc dir seq pt.length).foldl exchange pt
  dec kenc dir seq ct := (cipherRows t.cipher kenc dir seq ct.length).reverse.foldl exchange ct
  mac := macValue t.mac c.tagLen

/-- The suite `SUITE` of a configuration (00_scope.md R8). -/
def suiteOf (c : Cfg) : Suite :=
  match c.suite with
  | .ref => suiteRef c
  | .null => suiteNull c
  | .table t => suiteTable c t

end Sys2Proof.Machine
end

