-- ==== Sys2Proof/Machine/Ops.lean ====
section
/-! DEFINITION. The named operations over the registers, the buffers and the contexts, which the meanings are
written with. Raising a status is the whole of taking an exception here (60_exceptions.md R356), and is ONE
operation, `State.raise`; there is no return from one (R357). -/

namespace Sys2Proof.Machine

/-! ## The response and raising a status -/

/-- The response word of a command: status code, data byte (30_encoding.md R100). -/
def State.respond (st : Status) (data : Byte) (s : State) : State :=
  { s with env := { s.env with resp := some (word16 st.code data) } }

/-- `return OK(d)` (00_scope.md R11). -/
def State.ok (data : Byte) (s : State) : State := s.respond .ok data

/-- A set of EFLAGS bits becomes 1; the others stay (10_state.md R28: sticky). -/
def State.setFlags (bits : Byte) (s : State) : State := { s with eflags := s.eflags ||| bits }

/-- `raise st` (00_scope.md R11, 60_exceptions.md R356): the flag of the status's class is set, the response carries
the status with data 0x00 (46_host_ops.md R318), and nothing else changes. -/
def State.raise (st : Status) (s : State) : State := (s.setFlags st.flag).respond st 0#8

/-! ## The environment -/

/-- The next step the environment asks for (00_scope.md R5). -/
def State.nextEvent (s : State) : Option Event := s.env.events.head?

/-- The step that was asked for is taken off the list. -/
def State.dropEvent (s : State) : State := { s with env := { s.env with events := s.env.events.tail } }

/-- A step is put at the head of the list. -/
def State.pushEvent (e : Event) (s : State) : State :=
  { s with env := { s.env with events := e :: s.env.events } }

/-- Byte `i` of what the entropy source delivers from now on (00_scope.md R11): the bytes it has ready, then the
free values. -/
def Env.entropyAt (e : Env) (i : Nat) : Byte :=
  match e.entropy[i]? with
  | some b => b
  | none => Config.entropyByte (e.draws + (i - e.entropy.length))

/-- The bytes that `draw(n)` answers (00_scope.md R11). -/
def State.drawn (n : Nat) (s : State) : List Byte := (List.range n).map s.env.entropyAt

/-- The entropy source after `draw(n)`. -/
def State.afterDraw (n : Nat) (s : State) : State :=
  { s with env := { s.env with
      entropy := s.env.entropy.drop n
      draws := s.env.draws + (n - s.env.entropy.length) } }

/-! ## The buffers -/

/-- `x[ILEN]` (10_state.md R31). -/
def State.ilen (s : State) : Nat := s.ibuf.length

/-- `x[OLEN]` (10_state.md R32). -/
def State.olen (s : State) : Nat := s.obuf.length

/-- `IBUF <- bytes` (00_scope.md R11). -/
def State.setIbuf (bytes : List Byte) (s : State) : State := { s with ibuf := bytes }

/-- `OBUF <- bytes`: content, OLEN, and `OPTR <- 0` (00_scope.md R11). -/
def State.setObuf (bytes : List Byte) (s : State) : State := { s with obuf := bytes, optr := 0#16 }

/-- `x[ILEN] = BUF_SIZE` (46_host_ops.md R305). -/
abbrev State.ibufFull (s : State) : Prop := s.ilen = s.cfg.bufSize

/-- What PUSH does (46_host_ops.md R305). -/
def State.pushByte (b : Byte) (s : State) : State :=
  if s.ibufFull then s.raise .overflow else (s.setIbuf (s.ibuf ++ [b])).ok 0#8

/-- What ICLR does (46_host_ops.md R306). -/
def State.clearIbuf (s : State) : State := (s.setIbuf []).ok 0#8

/-- The pseudo-instruction `LOAD b0 ... bk`: ICLR, then PUSH of each byte (30_encoding.md R127). -/
def State.load (bytes : List Byte) (s : State) : State :=
  bytes.foldl (fun t b => t.pushByte b) s.clearIbuf

/-- The byte POP answers (46_host_ops.md R307); `none` when nothing is left to read. -/
def State.popByte (s : State) : Option Byte := s.obuf[s.optr.toNat]?

/-- Is an RXCH step of `n` bytes, one after the other, enabled (41_framer_decode.md R160)? -/
abbrev State.rxRoom (n : Nat) (s : State) : Prop := s.rxbuf.length + n ≤ s.cfg.rxbufSize

/-- Bytes arrive at the tail of RXBUF (41_framer_decode.md R160). -/
def State.receive (bytes : List Byte) (s : State) : State := { s with rxbuf := s.rxbuf ++ bytes }

/-- What RXCH steps with these bytes do: enabled, they append them; not enabled, the step is stuck
(41_framer_decode.md R160, 93_implementation_defined.md U19). -/
def State.rxSteps (bytes : List Byte) (s : State) : Host.Outcome State Fault Refusal :=
  if s.rxRoom bytes.length then .next (s.receive bytes) else .fault .rxchNotEnabled

/-- What a TXCH step does (40_framer_encode.md R147). -/
def State.txStep (s : State) : Host.Outcome State Fault Refusal :=
  match s.txfifo with
  | [] => .fault .txchNotEnabled
  | b :: rest => .next { s with txfifo := rest, env := { s.env with wire := s.env.wire ++ [b] } }

/-- What is left in RXBUF becomes `left` (41_framer_decode.md R163). -/
def State.setRxbuf (left : List Byte) (s : State) : State := { s with rxbuf := left }

/-- Is there room in TXFIFO for `n` more bytes (40_framer_encode.md R141)? -/
abbrev State.txRoom (n : Nat) (s : State) : Prop := s.txfifo.length + n ≤ s.cfg.txfifoSize

/-- Bytes are appended at the tail of TXFIFO (40_framer_encode.md R141). -/
def State.transmit (bytes : List Byte) (s : State) : State := { s with txfifo := s.txfifo ++ bytes }

/-- What the block does with an item that decodes to no instruction: an unassigned opcode raises E_OPCODE
(30_encoding.md R122); bytes that are no frame arrive all the same (41_framer_decode.md R160); bytes that are no
secure payload region are loaded all the same (30_encoding.md R127). -/
def State.undecoded (e : Encoded) (s : State) : Host.Outcome State Fault Refusal :=
  match e with
  | .command _ => .next (s.raise .opcode)
  | .line bytes => s.rxSteps bytes
  | .region bytes => .next (s.load bytes)

/-! ## Reset -/

/-- Every piece of the block's state at its reset value; the configuration and the environment are not state of
the block and stay (10_state.md R56, R60; 70_reset_and_hazards.md R380, R383). -/
def State.resetBlock (s : State) : State where
  cfg := s.cfg
  txaddr := 0#8
  txctrl := 0#8
  rxaddr := 0#8
  rxctrl := 0#8
  ctx := 0#8
  eflags := 0#8
  cksacc := 0#8
  crcacc := s.cfg.crcInit
  ibuf := []
  obuf := []
  optr := 0#16
  rxbuf := []
  txfifo := []
  sc := List.replicate s.cfg.nCtx (Context.reset s.cfg)
  env := s.env

/-- The hardware reset input: every piece of the block's state takes its reset value, and no response is given
(70_reset_and_hazards.md R380, R381). -/
def State.hardwareReset (s : State) : State :=
  { s.resetBlock with env := { s.env with resp := none } }

/-! ## The selected context -/

/-- `SC[x[CTX]]`. `CTX < N_CTX` always holds (10_state.md R27); where it would not, the reset value is read. -/
def State.context (s : State) : Context := s.sc.getD s.ctx.toNat (Context.reset s.cfg)

/-- `SC[x[CTX]] <- c`. -/
def State.setContext (c : Context) (s : State) : State := { s with sc := s.sc.set s.ctx.toNat c }

/-- `SC[c].state = Negotiating and SC[c].role = r and SC[c].phase = p`, the condition of 43_secure_handshake.md R218,
R220 and R222. -/
abbrev Context.waits (c : Context) (r : Role) (p : Phase) : Prop :=
  c.state = .negotiating ∧ c.role = r ∧ c.phase = p

/-- `neg_fail(c)` (43_secure_handshake.md R219). -/
def Context.negFail (c : Context) : Context := { c with state := .failed, phase := .idle }

/-- `activate(c)` (43_secure_handshake.md R224). -/
def Context.activate (S : Suite) (c : Context) : Context :=
  { c with
    kenc := S.kdfEnc c.psk c.na c.nb
    kmac := S.kdfMac c.psk c.na c.nb
    seqTx := 0#32
    seqRx := 0#32
    fails := 0#8
    phase := .idle
    state := .active }

/-- `clear_session(c)` (43_secure_handshake.md R228): the secret and the state stay. -/
def Context.clearSession (cfg : Cfg) (c : Context) : Context :=
  { c with
    na := zeroBytes cfg.nonceLen
    nb := zeroBytes cfg.nonceLen
    kenc := zeroBytes cfg.keyLen
    kmac := zeroBytes cfg.keyLen
    seqTx := 0#32
    seqRx := 0#32
    fails := 0#8
    phase := .idle
    role := .initiator }

/-- `min(fails + 1, 255)` (44_secure_transport.md R246). -/
def nextFails (f : Byte) : Byte := BitVec.ofNat 8 (min (f.toNat + 1) 255)

/-- `sc_fail(c)` (44_secure_transport.md R246). -/
def Context.scFail (cfg : Cfg) (c : Context) : Context :=
  if cfg.scFailLimit ≤ (nextFails c.fails).toNat then
    { c with
      fails := nextFails c.fails
      state := .failed
      phase := .idle
      kenc := zeroBytes cfg.keyLen
      kmac := zeroBytes cfg.keyLen }
  else { c with fails := nextFails c.fails }

/-- `dir_tx(c) = SC[c].role` (44_secure_transport.md R240). -/
def Context.dirTx (c : Context) : BitVec 1 := c.role.code

/-- `dir_rx(c) = 1 - SC[c].role` (44_secure_transport.md R240). -/
def Context.dirRx (c : Context) : BitVec 1 := 1#1 - c.role.code

/-- The suite the block is built with. -/
def State.suite (s : State) : Suite := suiteOf s.cfg

end Sys2Proof.Machine
end

