-- ==== Sys2Proof/Machine/Framer.lean ====
section
/-! DEFINITION. The framer's commands ENCODE (40_framer_encode.md R141) and DECODE (41_framer_decode.md R163), and
the frames offered on the receive line (30_encoding.md R101, R102). -/

namespace Sys2Proof.Machine

/-- ENCODE (40_framer_encode.md R141). -/
def execEncode (s : State) : Host.Outcome State Fault Refusal :=
  let len := frameLen s.txctrl s.ilen
  if s.cfg.maxFrameLen < len then .next (s.raise .overflow)
  else if s.txRoom len then
    .next ((s.transmit (encodeFrame s.cfg s.txaddr s.txctrl s.ibuf)).ok (lenByte len))
  else .next (s.raise .txfull)

/-- DECODE (41_framer_decode.md R163): the outcome of the parser step decides. -/
def execDecode (s : State) : Host.Outcome State Fault Refusal :=
  match parseFrame s.cfg s.rxbuf with
  | .needMore => .next (s.respond .needMore 0#8)
  | .badStart left => .next ((s.setRxbuf left).raise .ism)
  | .badLength left => .next ((s.setRxbuf left).raise .len)
  | .badTrailer left => .next ((s.setRxbuf left).raise .trl)
  | .frame addr ctrl payload left =>
    let t := { s with rxaddr := addr, rxctrl := ctrl }
    .next (((t.setRxbuf left).setObuf payload).ok (lenByte payload.length))

/-- Row FRAME.CK: the RXCH steps that receive the frame's bytes, one after the other (30_encoding.md R101, R126;
41_framer_decode.md R160; log entry 3). DESIGN CHOICE (log entry 11): a row that is not well formed, with
`CONTROL[2]` set or a payload above MAX_PAYLOAD, is no frame of R102, and its bytes are received all the same, checksum
trailer and all. -/
def execFrameCk (addr ctrl : Byte) (payload : List Byte) (s : State) : Host.Outcome State Fault Refusal :=
  s.rxSteps (frameCkBytes s.cfg addr ctrl payload)

/-- Row FRAME.CRC: the RXCH steps that receive the frame's bytes, one after the other (30_encoding.md R102, R126;
41_framer_decode.md R160; log entry 3). DESIGN CHOICE (log entry 11): a row that is not well formed, with
`CONTROL[2]` clear or a payload above MAX_PAYLOAD, is no frame of R102, and its bytes are received all the same, CRC
trailer and all. -/
def execFrameCrc (addr ctrl : Byte) (payload : List Byte) (s : State) : Host.Outcome State Fault Refusal :=
  s.rxSteps (frameCrcBytes s.cfg addr ctrl payload)

end Sys2Proof.Machine
end

