-- ==== Sys2Proof/Machine/Handshake.lean ====
section
/-! DEFINITION. The secure-channel unit's context and handshake commands (43_secure_handshake.md R211 to R230).
All but SCSEL act on the selected context. -/

namespace Sys2Proof.Machine

/-- SCSEL imm (43_secure_handshake.md R211). -/
def execScsel (imm : Byte) (s : State) : Host.Outcome State Fault Refusal :=
  if s.cfg.nCtx ≤ imm.toNat then .next (s.raise .ctx)
  else .next (State.ok imm { s with ctx := imm })

/-- SCSTAT (43_secure_handshake.md R229). -/
def execScstat (s : State) : Host.Outcome State Fault Refusal := .next (s.ok (scstatByte s.context))

/-- SCFAILS (43_secure_handshake.md R230). -/
def execScfails (s : State) : Host.Outcome State Fault Refusal := .next (s.ok s.context.fails)

/-- SCKEY (43_secure_handshake.md R212): the secret leaves IBUF, which becomes empty. -/
def execSckey (s : State) : Host.Outcome State Fault Refusal :=
  if s.context.state ≠ .inactive then .next (s.raise .scState)
  else if s.ilen ≠ s.cfg.keyLen then .next (s.raise .arg)
  else .next (((s.setContext { s.context with psk := s.ibuf, pskValid := true }).setIbuf []).ok 0#8)

/-- SCCLR (43_secure_handshake.md R213). -/
def execScclr (s : State) : Host.Outcome State Fault Refusal :=
  .next ((s.setContext (Context.reset s.cfg)).ok 0#8)

/-- SCINIT (43_secure_handshake.md R214). -/
def execScinit (s : State) : Host.Outcome State Fault Refusal :=
  if s.context.state ≠ .inactive then .next (s.raise .scState)
  else if s.context.pskValid = false then .next (s.raise .scNokey)
  else
    let na := s.drawn s.cfg.nonceLen
    let c := { s.context with
      na := na, role := .initiator, phase := .initAwaitReply, state := .negotiating }
    .next ((((s.afterDraw s.cfg.nonceLen).setContext c).setObuf na).ok (lenByte s.cfg.nonceLen))

/-- SCCHAL (43_secure_handshake.md R216). -/
def execScchal (s : State) : Host.Outcome State Fault Refusal :=
  if s.context.state ≠ .inactive then .next (s.raise .scState)
  else if s.context.pskValid = false then .next (s.raise .scNokey)
  else if s.ilen ≠ s.cfg.nonceLen then .next (s.raise .arg)
  else
    let nb := s.drawn s.cfg.nonceLen
    let c := { s.context with
      na := s.ibuf, nb := nb, role := .responder, phase := .respAwaitVerify, state := .negotiating }
    .next ((((s.afterDraw s.cfg.nonceLen).setContext c).setObuf
      (nb ++ s.suite.resp s.context.psk s.ibuf nb)).ok (lenByte (s.cfg.nonceLen + s.cfg.verifLen)))

/-- SCVRFY (43_secure_handshake.md R218). -/
def execScvrfy (s : State) : Host.Outcome State Fault Refusal :=
  if ¬ s.context.waits .initiator .initAwaitReply then .next (s.raise .scState)
  else if s.ilen ≠ s.cfg.nonceLen + s.cfg.verifLen then .next (s.raise .arg)
  else
    let nb := s.ibuf.take s.cfg.nonceLen
    let c := { s.context with nb := nb }
    if s.ibuf.drop s.cfg.nonceLen ≠ s.suite.resp c.psk c.na nb then
      .next ((s.setContext c.negFail).raise .scVerify)
    else
      .next (((s.setContext { c with phase := .initAwaitAck }).setObuf
        (s.suite.initv c.psk c.na nb)).ok (lenByte s.cfg.verifLen))

/-- SCRVFY (43_secure_handshake.md R220). -/
def execScrvfy (s : State) : Host.Outcome State Fault Refusal :=
  if ¬ s.context.waits .responder .respAwaitVerify then .next (s.raise .scState)
  else if s.ilen ≠ s.cfg.verifLen then .next (s.raise .arg)
  else if s.ibuf ≠ s.suite.initv s.context.psk s.context.na s.context.nb then
    .next ((s.setContext s.context.negFail).raise .scVerify)
  else .next ((s.setContext (s.context.activate s.suite)).ok 0#8)

/-- SCFIN imm (43_secure_handshake.md R222): only `imm[0]` counts. -/
def execScfin (imm : Byte) (s : State) : Host.Outcome State Fault Refusal :=
  if ¬ s.context.waits .initiator .initAwaitAck then .next (s.raise .scState)
  else if verdictOf imm then .next ((s.setContext (s.context.activate s.suite)).ok 0#8)
  else .next ((s.setContext s.context.negFail).raise .scVerify)

/-- SCTMO (43_secure_handshake.md R226): the status is OK, and EFLAGS.SC is set all the same. -/
def execSctmo (s : State) : Host.Outcome State Fault Refusal :=
  if s.context.state ≠ .negotiating then .next (s.raise .scState)
  else .next (((s.setContext s.context.negFail).setFlags flagSc).ok 0#8)

/-- SCRETRY (43_secure_handshake.md R227). -/
def execScretry (s : State) : Host.Outcome State Fault Refusal :=
  if s.context.state ≠ .failed then .next (s.raise .scState)
  else .next ((s.setContext { s.context.clearSession s.cfg with state := .inactive }).ok 0#8)

end Sys2Proof.Machine
end

