-- ==== Sys2Proof/Machine/HostOps.lean ====
section
/-! DEFINITION. The host operations (46_host_ops.md): system, buffer, operand register and queue commands. -/

namespace Sys2Proof.Machine

/-- NOP (46_host_ops.md R301). -/
def execNop (s : State) : Host.Outcome State Fault Refusal := .next (s.ok 0#8)

/-- RESET (46_host_ops.md R302): the transition of the reset input, then `return OK`. -/
def execReset (s : State) : Host.Outcome State Fault Refusal := .next (s.resetBlock.ok 0#8)

/-- RDFLAGS (46_host_ops.md R303). -/
def execRdflags (s : State) : Host.Outcome State Fault Refusal := .next (s.ok s.eflags)

/-- CLRFLAGS (46_host_ops.md R304). -/
def execClrflags (s : State) : Host.Outcome State Fault Refusal :=
  .next (State.ok 0#8 { s with eflags := 0#8 })

/-- PUSH imm (46_host_ops.md R305). -/
def execPush (imm : Byte) (s : State) : Host.Outcome State Fault Refusal := .next (s.pushByte imm)

/-- ICLR (46_host_ops.md R306). -/
def execIclr (s : State) : Host.Outcome State Fault Refusal := .next s.clearIbuf

/-- POP (46_host_ops.md R307). -/
def execPop (s : State) : Host.Outcome State Fault Refusal :=
  match s.popByte with
  | none => .next (s.raise .underflow)
  | some d => .next (State.ok d { s with optr := s.optr + 1#16 })

/-- OLENL (46_host_ops.md R308). -/
def execOlenl (s : State) : Host.Outcome State Fault Refusal := .next (s.ok (lowByte (lenWord s.olen)))

/-- OLENH (46_host_ops.md R309). -/
def execOlenh (s : State) : Host.Outcome State Fault Refusal := .next (s.ok (highByte (lenWord s.olen)))

/-- XFER (46_host_ops.md R310). -/
def execXfer (s : State) : Host.Outcome State Fault Refusal :=
  .next ((s.setIbuf s.obuf).ok (lenByte s.olen))

/-- OREW (46_host_ops.md R311). -/
def execOrew (s : State) : Host.Outcome State Fault Refusal :=
  .next (State.ok 0#8 { s with optr := 0#16 })

/-- SETADDR imm (46_host_ops.md R312). -/
def execSetaddr (imm : Byte) (s : State) : Host.Outcome State Fault Refusal :=
  .next (State.ok imm { s with txaddr := imm })

/-- SETCTRL imm (46_host_ops.md R313). -/
def execSetctrl (imm : Byte) (s : State) : Host.Outcome State Fault Refusal :=
  .next (State.ok imm { s with txctrl := imm })

/-- GETADDR (46_host_ops.md R314). -/
def execGetaddr (s : State) : Host.Outcome State Fault Refusal := .next (s.ok s.rxaddr)

/-- GETCTRL (46_host_ops.md R315). -/
def execGetctrl (s : State) : Host.Outcome State Fault Refusal := .next (s.ok s.rxctrl)

/-- FSTAT (46_host_ops.md R316). -/
def execFstat (s : State) : Host.Outcome State Fault Refusal := .next (s.ok (fstatByte s))

/-- RXFLUSH (46_host_ops.md R317): the data byte is the low byte of what RXLEN was. -/
def execRxflush (s : State) : Host.Outcome State Fault Refusal :=
  .next ((s.setRxbuf []).ok (lenByte s.rxbuf.length))

end Sys2Proof.Machine
end

