-- ==== Sys2Proof/Machine/TrailerOps.lean ====
section
/-! DEFINITION. The trailer generator's commands (42_trailer_generator.md R194 to R201). -/

namespace Sys2Proof.Machine

/-- CKSINIT (42_trailer_generator.md R194). -/
def execCksinit (s : State) : Host.Outcome State Fault Refusal :=
  .next (State.ok 0#8 { s with cksacc := 0#8 })

/-- CKSUPD imm (42_trailer_generator.md R195): the sum wraps, the carry is lost. -/
def execCksupd (imm : Byte) (s : State) : Host.Outcome State Fault Refusal :=
  .next (State.ok 0#8 { s with cksacc := s.cksacc + imm })

/-- `(256 - x[CKSACC]) mod 256` (42_trailer_generator.md R196). -/
def cksAnswer (acc : Byte) : Byte := BitVec.ofNat 8 (256 - acc.toNat)

/-- CKSGET (42_trailer_generator.md R196). -/
def execCksget (s : State) : Host.Outcome State Fault Refusal := .next (s.ok (cksAnswer s.cksacc))

/-- CKSBUF (42_trailer_generator.md R197). -/
def execCksbuf (s : State) : Host.Outcome State Fault Refusal :=
  let acc := BitVec.ofNat 8 (byteSum s.ibuf)
  .next (State.ok (cksAnswer acc) { s with cksacc := acc })

/-- CRCINIT (42_trailer_generator.md R198). -/
def execCrcinit (s : State) : Host.Outcome State Fault Refusal :=
  .next (State.ok 0#8 { s with crcacc := s.cfg.crcInit })

/-- CRCUPD imm (42_trailer_generator.md R199). -/
def execCrcupd (imm : Byte) (s : State) : Host.Outcome State Fault Refusal :=
  .next (State.ok 0#8 { s with crcacc := crcStep s.cfg.crcPoly s.crcacc imm })

/-- CRCGETL (42_trailer_generator.md R200). -/
def execCrcgetl (s : State) : Host.Outcome State Fault Refusal := .next (s.ok (lowByte s.crcacc))

/-- CRCGETH (42_trailer_generator.md R200). -/
def execCrcgeth (s : State) : Host.Outcome State Fault Refusal := .next (s.ok (highByte s.crcacc))

/-- CRCBUF (42_trailer_generator.md R201). -/
def execCrcbuf (s : State) : Host.Outcome State Fault Refusal :=
  let acc := crc16 s.cfg s.ibuf
  .next (State.ok (lowByte acc) { s with crcacc := acc })

end Sys2Proof.Machine
end

