-- ==== Sys2Proof/Machine/Transport.lean ====
section
/-! DEFINITION. The secure-channel unit's transport commands (44_secure_transport.md R241, R244, R248), and the
secure payload region offered to the operand buffer (30_encoding.md R112). -/

namespace Sys2Proof.Machine

/-- SCWRAP (44_secure_transport.md R241). -/
def execScwrap (s : State) : Host.Outcome State Fault Refusal :=
  let c := s.context
  if c.state ≠ .active then .next (s.raise .scState)
  else if s.cfg.bufSize < s.ilen + secOvh s.cfg then .next (s.raise .overflow)
  else if c.seqTx = 0xFFFFFFFF#32 then .next (s.raise .scExhausted)
  else
    let seq := c.seqTx + 1#32
    let tag := s.suite.mac c.kmac s.txaddr s.txctrl seq s.ibuf
    let ct := s.suite.enc c.kenc c.dirTx seq s.ibuf
    .next (((s.setContext { c with seqTx := seq }).setObuf (sprBytes seq ct tag)).ok
      (lenByte (s.ilen + secOvh s.cfg)))

/-- `sc_fail(c); raise st` (44_secure_transport.md R244, R246). -/
def State.unwrapFail (st : Status) (s : State) : State :=
  (s.setContext (s.context.scFail s.cfg)).raise st

/-- SCUNWRAP (44_secure_transport.md R244): length, sequence, decipher out of sight, tag, release (R245). -/
def execScunwrap (s : State) : Host.Outcome State Fault Refusal :=
  let c := s.context
  if c.state ≠ .active then .next (s.raise .scState)
  else if s.ilen < secOvh s.cfg then .next (s.unwrapFail .scFormat)
  else
    let seq := sprSeq s.ibuf
    if seq ≤ c.seqRx then .next (s.unwrapFail .scSeq)
    else
      let pt := s.suite.dec c.kenc c.dirRx seq (sprCt s.cfg s.ibuf)
      if s.suite.mac c.kmac s.rxaddr s.rxctrl seq pt ≠ sprTag s.cfg s.ibuf then
        .next (s.unwrapFail .scTag)
      else
        .next (((s.setContext { c with seqRx := seq, fails := 0#8 }).setObuf pt).ok
          (lenByte (s.ilen - secOvh s.cfg)))

/-- SCADMIT (44_secure_transport.md R248). -/
def execScadmit (s : State) : Host.Outcome State Fault Refusal :=
  if controlSec s.rxctrl = true ∧ s.context.state ≠ .negotiating ∧ s.context.state ≠ .active then
    .next (s.raise .scNoctx)
  else .next (s.ok (if controlSec s.rxctrl then 1#8 else 0#8))

/-- Row SPR: the bytes of a secure payload region are loaded into IBUF, where SCUNWRAP takes them from
(30_encoding.md R112, R127 `LOAD`; 44_secure_transport.md R244; log entry 3). DESIGN CHOICE (log entry 11): a row that is not
well formed, with a tag that is not TAG_LEN bytes, is no region of R112, and its bytes are loaded all the same. -/
def execSpr (seq : Word32) (ct tag : List Byte) (s : State) : Host.Outcome State Fault Refusal :=
  .next (s.load (sprBytes seq ct tag))

end Sys2Proof.Machine
end

