-- ==== Sys2Proof/Machine/Dispatch.lean ====
section
/-! DEFINITION. The dispatch: one arm per constructor of Instr, each one call of that instruction's meaning. -/

namespace Sys2Proof.Machine

def exec (i : Instr) (s : State) : Host.Outcome State Fault Refusal :=
  match i with
  | .nop => Sys2Proof.Machine.execNop s
  | .reset => Sys2Proof.Machine.execReset s
  | .rdflags => Sys2Proof.Machine.execRdflags s
  | .clrflags => Sys2Proof.Machine.execClrflags s
  | .push imm => Sys2Proof.Machine.execPush imm s
  | .iclr => Sys2Proof.Machine.execIclr s
  | .pop => Sys2Proof.Machine.execPop s
  | .olenl => Sys2Proof.Machine.execOlenl s
  | .olenh => Sys2Proof.Machine.execOlenh s
  | .xfer => Sys2Proof.Machine.execXfer s
  | .orew => Sys2Proof.Machine.execOrew s
  | .setaddr imm => Sys2Proof.Machine.execSetaddr imm s
  | .setctrl imm => Sys2Proof.Machine.execSetctrl imm s
  | .encode => Sys2Proof.Machine.execEncode s
  | .decode => Sys2Proof.Machine.execDecode s
  | .getaddr => Sys2Proof.Machine.execGetaddr s
  | .getctrl => Sys2Proof.Machine.execGetctrl s
  | .rxflush => Sys2Proof.Machine.execRxflush s
  | .fstat => Sys2Proof.Machine.execFstat s
  | .cksinit => Sys2Proof.Machine.execCksinit s
  | .cksupd imm => Sys2Proof.Machine.execCksupd imm s
  | .cksget => Sys2Proof.Machine.execCksget s
  | .crcinit => Sys2Proof.Machine.execCrcinit s
  | .crcupd imm => Sys2Proof.Machine.execCrcupd imm s
  | .crcgetl => Sys2Proof.Machine.execCrcgetl s
  | .crcgeth => Sys2Proof.Machine.execCrcgeth s
  | .cksbuf => Sys2Proof.Machine.execCksbuf s
  | .crcbuf => Sys2Proof.Machine.execCrcbuf s
  | .scsel imm => Sys2Proof.Machine.execScsel imm s
  | .scstat => Sys2Proof.Machine.execScstat s
  | .sckey => Sys2Proof.Machine.execSckey s
  | .scclr => Sys2Proof.Machine.execScclr s
  | .scinit => Sys2Proof.Machine.execScinit s
  | .scchal => Sys2Proof.Machine.execScchal s
  | .scvrfy => Sys2Proof.Machine.execScvrfy s
  | .scrvfy => Sys2Proof.Machine.execScrvfy s
  | .scfin imm => Sys2Proof.Machine.execScfin imm s
  | .sctmo => Sys2Proof.Machine.execSctmo s
  | .scretry => Sys2Proof.Machine.execScretry s
  | .scwrap => Sys2Proof.Machine.execScwrap s
  | .scunwrap => Sys2Proof.Machine.execScunwrap s
  | .scadmit => Sys2Proof.Machine.execScadmit s
  | .scfails => Sys2Proof.Machine.execScfails s
  | .frameCk addr ctrl payload => Sys2Proof.Machine.execFrameCk addr ctrl payload s
  | .frameCrc addr ctrl payload => Sys2Proof.Machine.execFrameCrc addr ctrl payload s
  | .spr seq ct tag => Sys2Proof.Machine.execSpr seq ct tag s

end Sys2Proof.Machine
end

