-- ==== Sys2Proof/Machine/Step.lean ====
section
/-! DEFINITION. One step of the machine: the next event of the environment is taken and the agent it names acts
(00_scope.md R4, R5). -/

namespace Sys2Proof.Machine

/-- What the block does with an item at a port: the instruction that the item decodes to runs. -/
def stepItem (e : Encoded) (s : State) : Host.Outcome State Fault Refusal :=
  match decodeItem s.cfg e with
  | .ok i => exec i s
  | .error _ => s.undecoded e

/-- One step. With no event left nothing happens: the block never halts, it waits (70_reset_and_hazards.md R404). -/
def step (s : State) : Host.Outcome State Fault Refusal :=
  match s.nextEvent with
  | none => .next s
  | some (.item e) => stepItem e s.dropEvent
  | some (.rx b) => s.dropEvent.rxSteps [b]
  | some .tx => s.dropEvent.txStep
  | some .hwReset => .next s.dropEvent.hardwareReset

/-- The instruction of `nbits` bits `w` stands where `step` takes its next item from. -/
def State.withFetchWord (s : State) (nbits w : Nat) : State :=
  s.pushEvent (.item (itemOfBits s.cfg nbits w))

end Sys2Proof.Machine
end

