-- ==== Sys2Proof/Safety.lean ====
section
/-! DEFINITION. The terms the claims use: reading one byte of a buffer space, the well-formed states, what a response
and a raised status look like in the state, and running a list of instructions. -/

namespace Sys2Proof.Machine

/-! ## Reading memory -/

/-- The four byte buffers of 20_memory.md R70. The fifth space, the key store, is the contexts' fields. -/
inductive Space where
  | ibuf
  | obuf
  | rxbuf
  | txfifo
deriving DecidableEq, Repr

/-- The valid bytes of a space. -/
def State.buffer (s : State) : Space → List Byte
  | .ibuf => s.ibuf
  | .obuf => s.obuf
  | .rxbuf => s.rxbuf
  | .txfifo => s.txfifo

/-- `MemRead(space, addr, 1)` (00_scope.md R11): one byte of a space; `none` beyond its valid bytes, where no rule
reads (10_state.md R31). -/
def State.memRead (s : State) (space : Space) (addr : Nat) : Option Byte := (s.buffer space)[addr]?

/-! ## Well-formed states -/

/-- Every buffer is within its capacity, and OPTR is within OBUF (10_state.md R31 to R34). -/
abbrev Memory.wf (s : State) : Prop :=
  s.ibuf.length ≤ s.cfg.bufSize ∧ s.obuf.length ≤ s.cfg.bufSize ∧ s.optr.toNat ≤ s.obuf.length ∧
  s.rxbuf.length ≤ s.cfg.rxbufSize ∧ s.txfifo.length ≤ s.cfg.txfifoSize

/-- The fields of a context have their lengths (10_state.md R44 to R46). -/
abbrev Context.sized (cfg : Cfg) (c : Context) : Prop :=
  c.psk.length = cfg.keyLen ∧ c.na.length = cfg.nonceLen ∧ c.nb.length = cfg.nonceLen ∧
  c.kenc.length = cfg.keyLen ∧ c.kmac.length = cfg.keyLen

/-- The invariants (a) to (d) of 10_state.md R50, with what they rest on: a context has session keys only while it is
Active (R46, 43_secure_handshake.md R219), and the role fits the phase (R43). -/
abbrev Context.inv (cfg : Cfg) (c : Context) : Prop :=
  (c.phase ≠ .idle ↔ c.state = .negotiating) ∧
  (c.state = .negotiating ∨ c.state = .active → c.pskValid = true) ∧
  (c.state ≠ .active → c.kenc = zeroBytes cfg.keyLen ∧ c.kmac = zeroBytes cfg.keyLen) ∧
  (c.state = .active → c.fails.toNat < cfg.scFailLimit) ∧
  (c.phase = .initAwaitReply ∨ c.phase = .initAwaitAck → c.role = .initiator) ∧
  (c.phase = .respAwaitVerify → c.role = .responder) ∧
  Context.sized cfg c

/-- The invariant of the machine: a legal configuration (00_scope.md R8), the buffers within their capacities
(10_state.md R31 to R34), `CTX < N_CTX` (R27), `N_CTX` contexts (R40), the reserved EFLAGS bits zero (R28), and every
context as R50 says. -/
abbrev State.inv (s : State) : Prop :=
  s.cfg.valid ∧ Memory.wf s ∧ s.ctx.toNat < s.cfg.nCtx ∧ s.sc.length = s.cfg.nCtx ∧
  s.eflags &&& 0xE0#8 = 0#8 ∧ ∀ c ∈ s.sc, Context.inv s.cfg c

/-- Every piece of the block's state has the value of 10_state.md R60. -/
abbrev State.atReset (s : State) : Prop :=
  s.txaddr = 0#8 ∧ s.txctrl = 0#8 ∧ s.rxaddr = 0#8 ∧ s.rxctrl = 0#8 ∧ s.ctx = 0#8 ∧ s.eflags = 0#8 ∧
  s.cksacc = 0#8 ∧ s.crcacc = s.cfg.crcInit ∧ s.ibuf = [] ∧ s.obuf = [] ∧ s.optr = 0#16 ∧ s.rxbuf = [] ∧
  s.txfifo = [] ∧ s.sc.length = s.cfg.nCtx ∧
  ∀ c ∈ s.sc, c.state = .inactive ∧ c.role = .initiator ∧ c.phase = .idle ∧ c.pskValid = false ∧
    c.fails = 0#8 ∧ c.psk = zeroBytes s.cfg.keyLen ∧ c.na = zeroBytes s.cfg.nonceLen ∧
    c.nb = zeroBytes s.cfg.nonceLen ∧ c.kenc = zeroBytes s.cfg.keyLen ∧ c.kmac = zeroBytes s.cfg.keyLen ∧
    c.seqTx = 0#32 ∧ c.seqRx = 0#32

/-! ## What a command leaves -/

/-- The state `s` with the response word `status`, `data` and nothing else changed. -/
def State.replied (s : State) (status data : Byte) : State :=
  { s with env := { s.env with resp := some (status ++ data) } }

/-- The state `s` with the response `OK(data)` (00_scope.md R11) and nothing else changed. -/
def State.answered (s : State) (data : Byte) : State := s.replied 0x00#8 data

/-- The response that `t` holds has status OK (60_exceptions.md R340). -/
def AnswersOk (t : State) : Prop := ∃ data : Byte, t.env.resp = some (0x00#8 ++ data)

/-- The state `s` after a raise: the EFLAGS bit `bit` is set, the response is `status` with data 0x00, and nothing
else is changed (00_scope.md R11, 60_exceptions.md R356). -/
def State.raised (s : State) (status bit : Byte) : State :=
  { s with eflags := s.eflags ||| bit, env := { s.env with resp := some (status ++ 0x00#8) } }

/-- The state `s` with the selected context replaced by `c`. -/
def State.withContext (s : State) (c : Context) : State := { s with sc := s.sc.set s.ctx.toNat c }

/-- The selected context is `c` (10_state.md R27, R40). -/
abbrev State.selected (s : State) (c : Context) : Prop := s.sc[s.ctx.toNat]? = some c

/-- `d` is what `sc_fail` makes of the context `c` (44_secure_transport.md R246). -/
def ScFailed (cfg : Cfg) (c d : Context) : Prop :=
  ∃ f : Byte, f.toNat = min (c.fails.toNat + 1) 255 ∧
    (f.toNat < cfg.scFailLimit → d = { c with fails := f }) ∧
    (cfg.scFailLimit ≤ f.toNat → d = { c with
      fails := f, state := .failed, phase := .idle,
      kenc := zeroBytes cfg.keyLen, kmac := zeroBytes cfg.keyLen })

/-- Every word with opcode `op` is the format N command `i` (30_encoding.md R100, R120, R121). -/
def CommandN (op : Byte) (i : Instr) : Prop := ∀ ignored : Byte, decodeCommand (op ++ ignored) = .ok i

/-- A word with opcode `op` is the format I command `f imm` (30_encoding.md R100, R120, R121). -/
def CommandI (op : Byte) (f : Byte → Instr) : Prop := ∀ imm : Byte, decodeCommand (op ++ imm) = .ok (f imm)

/-! ## Runs -/

/-- Instructions executed one after the other, as long as each answers a next state. -/
def runInstrs : List Instr → State → Host.Outcome State Fault Refusal
  | [], s => .next s
  | i :: rest, s =>
    match exec i s with
    | .next t => runInstrs rest t
    | .fault f => .fault f
    | .refused r => .refused r

/-- An outcome with a change made to the next state. -/
def mapNext (f : State → State) : Host.Outcome State Fault Refusal → Host.Outcome State Fault Refusal
  | .next t => .next (f t)
  | .fault r => .fault r
  | .refused r => .refused r

/-- Is the instruction a command, and no wire-format row (30_encoding.md R121)? -/
def IsCommand (i : Instr) : Prop :=
  (∀ a k p, i ≠ .frameCk a k p) ∧ (∀ a k p, i ≠ .frameCrc a k p) ∧ (∀ q c t, i ≠ .spr q c t)

end Sys2Proof.Machine
end

