-- ==== Sys2Proof/Certificates/Slice0/Obligations.lean ====
section
/-! DEFINITION. The statements for the provers, one definition each. A statement about a command says which words are
that command (`CommandN`, `CommandI`), that it answers a next state, and which state: every field it does not name is
the field of the state before, so the equation is the frame too (memory, registers, contexts, configuration and
environment alike). The terms are those of Sys2Proof/Safety.lean. -/

open Sys2Proof Sys2Proof.Machine

/-! ## Words, steps, agents -/

/-- A step whose next event is an item runs the instruction the item decodes to (00_scope.md R4, 30_encoding.md R100).
An item that is no instruction: an unassigned opcode raises E_OPCODE (30_encoding.md R122); bytes on the line that are
no frame arrive all the same, or are not enabled; a region that is none is loaded all the same, up to BUF_SIZE bytes,
and raises E_OVERFLOW if it has more. The item is taken off the environment's list first. The list is the model's choice
(log entry 1), and so is what an item other than a command word is (log entry 3). -/
def Obligations.StepRunsDecodedInstruction : Prop :=
  ∀ (s t : State) (e : Encoded) (rest : List Event), s.env.events = .item e :: rest →
    t = { s with env := { s.env with events := rest } } →
    (∀ i, decodeItem s.cfg e = .ok i → step s = exec i t) ∧
    (∀ why, decodeItem s.cfg e = .error why → step s = stepItem e t ∧
      (∀ w, e = .command w → step s = .next (t.raised 0x30#8 0x10#8)) ∧
      (∀ bytes, e = .line bytes →
        (s.rxbuf.length + bytes.length ≤ s.cfg.rxbufSize → step s = .next { t with rxbuf := s.rxbuf ++ bytes }) ∧
        (s.cfg.rxbufSize < s.rxbuf.length + bytes.length → step s = .fault .rxchNotEnabled)) ∧
      (∀ bytes, e = .region bytes →
        (bytes.length ≤ s.cfg.maxFrameLen → step s = .next (({ t with ibuf := bytes } : State).answered 0x00#8)) ∧
        (s.cfg.maxFrameLen < bytes.length →
          step s = .next (({ t with ibuf := bytes.take s.cfg.maxFrameLen } : State).raised 0x31#8 0x10#8))))

/-- A word with an unassigned opcode raises E_OPCODE and changes nothing else (30_encoding.md R122). -/
def Obligations.UnassignedOpcodeRaises : Prop :=
  ∀ (s : State) (op imm : Byte),
    (op = 0x02#8 ∨ (0x05#8 ≤ op ∧ op ≤ 0x0F#8) ∨ (0x17#8 ≤ op ∧ op ≤ 0x1F#8) ∨ (0x28#8 ≤ op ∧ op ≤ 0x2F#8) ∨
      (0x39#8 ≤ op ∧ op ≤ 0x3F#8) ∨ op = 0x4F#8 ∨ 0x50#8 ≤ op) →
    stepItem (.command (op ++ imm)) s = .next (s.raised 0x30#8 0x10#8)

/-- A few words written out from the opcode map of 30_encoding.md R121 decode to their commands. -/
def Obligations.SampleWordsDecode : Prop :=
  decodeCommand 0x0000#16 = .ok .nop ∧ decodeCommand 0x1055#16 = .ok (.push 0x55#8) ∧
  decodeCommand 0x210D#16 = .ok (.setctrl 0x0D#8) ∧ decodeCommand 0x2300#16 = .ok .decode ∧
  decodeCommand 0x34AA#16 = .ok (.crcupd 0xAA#8) ∧ decodeCommand 0x4801#16 = .ok (.scfin 0x01#8) ∧
  decodeCommand 0x4C00#16 = .ok .scunwrap ∧
  decodeLine .default [0x53#8, 0x01#8, 0x08#8, 0x00#8, 0x00#8, 0x55#8, 0xAA#8, 0x00#8] =
    .ok (.frameCk 0x01#8 0x00#8 [0x55#8, 0xAA#8])

/-- Decoding the encoding of a well-formed instruction gives it back, for every instruction, every operand and every
valid configuration: the 43 commands, the two frame formats and the secure payload region. -/
def Obligations.DecodeInvertsEncode : Prop :=
  ∀ (c : Cfg) (i : Instr), c.valid → i.wf c = true → decodeItem c (encodeItem c i) = .ok i

/-- Encoding what a command word decodes to gives the word back, but for the byte that format N ignores, which is
written 0x00, and the seven that take an operand keep it (30_encoding.md R100, R121). -/
def Obligations.EncodeInvertsDecode : Prop :=
  ∀ (c : Cfg) (op imm : Byte) (i : Instr), decodeCommand (op ++ imm) = .ok i →
    encodeItem c i = .command
      (op ++ if op ∈ [0x10#8, 0x20#8, 0x21#8, 0x31#8, 0x34#8, 0x40#8, 0x48#8] then imm else 0x00#8)

/-- Operand assembly (30_encoding.md R120): the seven format I commands take `W[7:0]` as it stands, SCFIN uses only its
bit 0, and `W[7:0]` of a format N command changes nothing. -/
def Obligations.OperandAssembly : Prop :=
  (CommandI 0x10#8 .push ∧ CommandI 0x20#8 .setaddr ∧ CommandI 0x21#8 .setctrl ∧ CommandI 0x31#8 .cksupd ∧
    CommandI 0x34#8 .crcupd ∧ CommandI 0x40#8 .scsel ∧ CommandI 0x48#8 .scfin) ∧
  (∀ (op x y : Byte), op ∉ [0x10#8, 0x20#8, 0x21#8, 0x31#8, 0x34#8, 0x40#8, 0x48#8] →
    ∀ i, decodeCommand (op ++ x) = .ok i → decodeCommand (op ++ y) = .ok i) ∧
  (∀ (x y : Byte) (s : State), x.getLsbD 0 = y.getLsbD 0 → exec (.scfin x) s = exec (.scfin y) s)

/-- The RXCH step: enabled exactly when `RXLEN < RXBUF_SIZE`, it appends the byte and changes nothing else
(41_framer_decode.md R160); not enabled, the model is stuck under a fault (log entry 1). -/
def Obligations.RxchStepAppendsByte : Prop :=
  ∀ (s : State) (b : Byte) (rest : List Event), s.env.events = .rx b :: rest →
    (s.rxbuf.length < s.cfg.rxbufSize →
      step s = .next { s with rxbuf := s.rxbuf ++ [b], env := { s.env with events := rest } }) ∧
    (s.cfg.rxbufSize ≤ s.rxbuf.length → step s = .fault .rxchNotEnabled)

/-- The TXCH step: enabled exactly when `TXCNT > 0`, it hands the head of TXFIFO to the transport and changes nothing
else (40_framer_encode.md R147); not enabled, the model is stuck under a fault (log entry 1). -/
def Obligations.TxchStepRemovesHead : Prop :=
  ∀ (s : State) (rest : List Event), s.env.events = .tx :: rest →
    (∀ b q, s.txfifo = b :: q →
      step s = .next { s with txfifo := q, env := { s.env with events := rest, wire := s.env.wire ++ [b] } }) ∧
    (s.txfifo = [] → step s = .fault .txchNotEnabled)

/-- The hardware reset step: every piece of the block's state takes its reset value, and it answers nothing
(70_reset_and_hazards.md R380). The configuration and the environment stay. -/
def Obligations.HardwareResetStep : Prop :=
  ∀ (s : State) (rest : List Event), s.env.events = .hwReset :: rest →
    ∃ t, step s = .next t ∧ t.atReset ∧ t.cfg = s.cfg ∧
      t.env = { s.env with events := rest, resp := none }

/-- After hardware reset, and after the RESET command, every piece of state has the value of 10_state.md R60, and so
has `State.reset`, in the default configuration. -/
def Obligations.ResetStateHasResetValues : Prop :=
  State.reset.atReset ∧ State.reset.cfg = Cfg.default ∧
  ∀ s : State, s.hardwareReset.atReset ∧ ∃ t, exec .reset s = .next t ∧ t.atReset

/-! ## Host operations -/

/-- NOP, RDFLAGS and CLRFLAGS (46_host_ops.md R301, R303, R304). -/
def Obligations.SystemCommands : Prop :=
  CommandN 0x00#8 .nop ∧ CommandN 0x03#8 .rdflags ∧ CommandN 0x04#8 .clrflags ∧
  ∀ s : State,
    exec .nop s = .next (s.answered 0x00#8) ∧
    exec .rdflags s = .next (s.answered s.eflags) ∧
    exec .clrflags s = .next (({ s with eflags := 0x00#8 } : State).answered 0x00#8)

/-- RESET: every piece of state takes its reset value, and the answer is OK (46_host_ops.md R302). -/
def Obligations.ResetCommand : Prop :=
  CommandN 0x01#8 .reset ∧
  ∀ s : State, ∃ t, exec .reset s = .next t ∧ t.atReset ∧ t.cfg = s.cfg ∧
    t.env = { s.env with resp := some 0x0000#16 }

/-- PUSH: the byte goes to index ILEN, or IBUF is full and E_OVERFLOW is raised (46_host_ops.md R305). -/
def Obligations.PushAppends : Prop :=
  CommandI 0x10#8 .push ∧
  ∀ (s : State) (imm : Byte),
    (s.ibuf.length ≠ s.cfg.maxFrameLen →
      exec (.push imm) s = .next (({ s with ibuf := s.ibuf ++ [imm] } : State).answered 0x00#8)) ∧
    (s.ibuf.length = s.cfg.maxFrameLen → exec (.push imm) s = .next (s.raised 0x31#8 0x10#8))

/-- POP: the byte at OPTR is answered and OPTR advances, or nothing is left and E_UNDERFLOW is raised
(46_host_ops.md R307). -/
def Obligations.PopReads : Prop :=
  CommandN 0x12#8 .pop ∧
  ∀ s : State,
    (∀ d, s.obuf[s.optr.toNat]? = some d →
      exec .pop s = .next (({ s with optr := s.optr + 1#16 } : State).answered d)) ∧
    (s.optr.toNat = s.obuf.length → exec .pop s = .next (s.raised 0x32#8 0x10#8))

/-- ICLR, OLENL, OLENH, XFER, OREW and RXFLUSH (46_host_ops.md R306, R308, R309, R310, R311, R317). -/
def Obligations.BufferCommands : Prop :=
  CommandN 0x11#8 .iclr ∧ CommandN 0x13#8 .olenl ∧ CommandN 0x14#8 .olenh ∧ CommandN 0x15#8 .xfer ∧
  CommandN 0x16#8 .orew ∧ CommandN 0x26#8 .rxflush ∧
  ∀ s : State,
    exec .iclr s = .next (({ s with ibuf := [] } : State).answered 0x00#8) ∧
    exec .olenl s = .next (s.answered (BitVec.ofNat 8 s.obuf.length)) ∧
    exec .olenh s = .next (s.answered (BitVec.ofNat 8 (s.obuf.length / 256))) ∧
    exec .xfer s = .next (({ s with ibuf := s.obuf } : State).answered (BitVec.ofNat 8 s.obuf.length)) ∧
    exec .orew s = .next (({ s with optr := 0#16 } : State).answered 0x00#8) ∧
    exec .rxflush s = .next (({ s with rxbuf := [] } : State).answered (BitVec.ofNat 8 s.rxbuf.length))

/-- SETADDR, SETCTRL, GETADDR and GETCTRL (46_host_ops.md R312 to R315). -/
def Obligations.HeaderRegisterCommands : Prop :=
  CommandI 0x20#8 .setaddr ∧ CommandI 0x21#8 .setctrl ∧ CommandN 0x24#8 .getaddr ∧ CommandN 0x25#8 .getctrl ∧
  ∀ (s : State) (imm : Byte),
    exec (.setaddr imm) s = .next (({ s with txaddr := imm } : State).answered imm) ∧
    exec (.setctrl imm) s = .next (({ s with txctrl := imm } : State).answered imm) ∧
    exec .getaddr s = .next (s.answered s.rxaddr) ∧
    exec .getctrl s = .next (s.answered s.rxctrl)

/-- FSTAT: the four queue status bits (46_host_ops.md R316). -/
def Obligations.FstatBits : Prop :=
  CommandN 0x27#8 .fstat ∧
  ∀ s : State, ∃ d : Byte, exec .fstat s = .next (s.answered d) ∧
    (d.getLsbD 0 = true ↔ s.rxbuf.length = 0) ∧
    (d.getLsbD 1 = true ↔ s.rxbuf.length = s.cfg.rxbufSize) ∧
    (d.getLsbD 2 = true ↔ s.txfifo.length = 0) ∧
    (d.getLsbD 3 = true ↔ (s.cfg.txfifoSize : Int) - s.txfifo.length < s.cfg.maxFrameLen) ∧
    d >>> 4 = 0#8

/-! ## Trailer generator -/

/-- CKSINIT, CKSUPD, CKSBUF, CRCINIT, CRCUPD and CRCBUF (42_trailer_generator.md R194, R195, R197, R198, R199,
R201), and the functions they and the framer compute: CKSUM is the two's complement of the byte sum (R190); `crc_step`
exclusive-ors the byte into bits 15:8 and then shifts eight times, each shift exclusive-oring CRC_POLY exactly when bit
15 was 1, and CRC16 takes one `crc_step` for each byte, from CRC_INIT (R191). -/
def Obligations.AccumulatorCommands : Prop :=
  CommandN 0x30#8 .cksinit ∧ CommandI 0x31#8 .cksupd ∧ CommandN 0x37#8 .cksbuf ∧
  CommandN 0x33#8 .crcinit ∧ CommandI 0x34#8 .crcupd ∧ CommandN 0x38#8 .crcbuf ∧
  (∀ bytes : List Byte, (cksum bytes).toNat = (256 - (bytes.map BitVec.toNat).sum % 256) % 256) ∧
  (∀ (c : Cfg) (bytes : List Byte), crc16 c bytes = bytes.foldl (crcStep c.crcPoly) c.crcInit) ∧
  (∀ (poly acc : Word16) (b : Byte) (a : Nat → Word16), a 0 = acc ^^^ ((b.setWidth 16) <<< 8) →
    (∀ n < 8, ((a n).getLsbD 15 = true → a (n + 1) = ((a n) <<< 1) ^^^ poly) ∧
      ((a n).getLsbD 15 = false → a (n + 1) = (a n) <<< 1)) →
    crcStep poly acc b = a 8) ∧
  ∀ (s : State) (imm sum : Byte) (crc : Word16),
    sum = s.ibuf.foldl (· + ·) 0x00#8 → crc = s.ibuf.foldl (crcStep s.cfg.crcPoly) s.cfg.crcInit →
    exec .cksinit s = .next (({ s with cksacc := 0x00#8 } : State).answered 0x00#8) ∧
    exec (.cksupd imm) s = .next (({ s with cksacc := s.cksacc + imm } : State).answered 0x00#8) ∧
    exec .cksbuf s = .next (({ s with cksacc := sum } : State).answered (-sum)) ∧
    exec .crcinit s = .next (({ s with crcacc := s.cfg.crcInit } : State).answered 0x00#8) ∧
    exec (.crcupd imm) s =
      .next (({ s with crcacc := crcStep s.cfg.crcPoly s.crcacc imm } : State).answered 0x00#8) ∧
    exec .crcbuf s = .next (({ s with crcacc := crc } : State).answered (crc.extractLsb' 0 8))

/-- CKSGET, CRCGETL and CRCGETH read the accumulators and change nothing. The spec marks their rules as derived
(42_trailer_generator.md R196, R200). -/
def Obligations.AccumulatorReads : Prop :=
  CommandN 0x32#8 .cksget ∧ CommandN 0x35#8 .crcgetl ∧ CommandN 0x36#8 .crcgeth ∧
  ∀ s : State,
    exec .cksget s = .next (s.answered (-s.cksacc)) ∧
    exec .crcgetl s = .next (s.answered (s.crcacc.extractLsb' 0 8)) ∧
    exec .crcgeth s = .next (s.answered (s.crcacc.extractLsb' 8 8))

/-- A byte sequence followed by its checksum has checksum 0x00 (42_trailer_generator.md R202 (a)). -/
def Obligations.ChecksumResidueIsZero : Prop := ∀ s : List Byte, cksum (s ++ [cksum s]) = 0x00#8

/-- A byte sequence followed by its CRC-16, high byte first, has CRC-16 0x0000, for every polynomial and initial
value (42_trailer_generator.md R202 (b)). -/
def Obligations.CrcResidueIsZero : Prop :=
  ∀ (c : Cfg) (s : List Byte),
    crc16 c (s ++ [(crc16 c s).extractLsb' 8 8, (crc16 c s).extractLsb' 0 8]) = 0x0000#16

/-- Feeding the bytes one command at a time leaves what the batch functions compute
(42_trailer_generator.md R202 (c)). -/
def Obligations.StreamingEqualsBatch : Prop :=
  ∀ (s : State) (bytes : List Byte),
    (∃ t, runInstrs (.crcinit :: bytes.map .crcupd) s = .next t ∧ t.crcacc = crc16 s.cfg bytes) ∧
    (∃ t, runInstrs (.cksinit :: bytes.map .cksupd) s = .next t ∧ -t.cksacc = cksum bytes)

/-- `crc_step` is linear over GF(2) in the accumulator and the byte jointly (42_trailer_generator.md R202 (d)). -/
def Obligations.CrcStepIsLinear : Prop :=
  ∀ (poly x y : Word16) (a b : Byte),
    crcStep poly (x ^^^ y) (a ^^^ b) = crcStep poly x a ^^^ crcStep poly y b

/-! ## Framer -/

/-- ENCODE: too long, no room, or the whole frame appended to TXFIFO (40_framer_encode.md R141). -/
def Obligations.EncodeAppendsWholeFrame : Prop :=
  CommandN 0x22#8 .encode ∧
  ∀ (s : State) (len : Nat), len = 5 + s.ibuf.length + (if s.txctrl.getLsbD 2 then 2 else 1) →
    (s.cfg.maxFrameLen < len → exec .encode s = .next (s.raised 0x31#8 0x10#8)) ∧
    (len ≤ s.cfg.maxFrameLen → s.cfg.txfifoSize < s.txfifo.length + len →
      exec .encode s = .next (s.raised 0x33#8 0x10#8)) ∧
    (len ≤ s.cfg.maxFrameLen → s.txfifo.length + len ≤ s.cfg.txfifoSize →
      exec .encode s = .next (({ s with
        txfifo := s.txfifo ++ encodeFrame s.cfg s.txaddr s.txctrl s.ibuf } : State).answered (BitVec.ofNat 8 len)))

/-- The bytes `encode(a, c, p)` gives for a payload of at most MAX_PAYLOAD(c) bytes (40_framer_encode.md R140, which
defines it for no other). -/
def Obligations.EncodedFrameLayout : Prop :=
  ∀ (c : Cfg) (a k : Byte) (p : List Byte),
    (k.getLsbD 2 = false → 6 + p.length ≤ c.maxFrameLen → encodeFrame c a k p =
      [c.som, a, BitVec.ofNat 8 (6 + p.length), BitVec.ofNat 8 ((6 + p.length) / 256), k] ++ p ++
        [cksum ([a] ++ [k] ++ p)]) ∧
    (k.getLsbD 2 = true → 7 + p.length ≤ c.maxFrameLen → encodeFrame c a k p =
      [c.som, a, BitVec.ofNat 8 (7 + p.length), BitVec.ofNat 8 ((7 + p.length) / 256), k] ++ p ++
        [(crc16 c ([a] ++ [k] ++ p)).extractLsb' 0 8, (crc16 c ([a] ++ [k] ++ p)).extractLsb' 8 8])

/-- DECODE answers NEED_MORE and changes nothing while the frame is not whole (41_framer_decode.md R165): nothing
received, fewer than 4 bytes, exactly 4 bytes, or fewer than `L` bytes. -/
def Obligations.DecodeWaitsForWholeFrame : Prop :=
  CommandN 0x23#8 .decode ∧
  ∀ s : State,
    (s.rxbuf = [] → exec .decode s = .next (s.replied 0x01#8 0x00#8)) ∧
    (∀ tail, s.rxbuf = s.cfg.som :: tail → tail.length < 3 →
      exec .decode s = .next (s.replied 0x01#8 0x00#8)) ∧
    (∀ (a lo hi : Byte) (len : Nat), s.rxbuf = [s.cfg.som, a, lo, hi] → len = lo.toNat + 256 * hi.toNat →
      6 ≤ len → len ≤ s.cfg.maxFrameLen → exec .decode s = .next (s.replied 0x01#8 0x00#8)) ∧
    (∀ (a lo hi k : Byte) (body : List Byte) (len : Nat), s.rxbuf = s.cfg.som :: a :: lo :: hi :: k :: body →
      len = lo.toNat + 256 * hi.toNat → (if k.getLsbD 2 then 7 else 6) ≤ len → len ≤ s.cfg.maxFrameLen →
      5 + body.length < len → exec .decode s = .next (s.replied 0x01#8 0x00#8))

/-- E_ISM: everything before the first `SOM` is discarded, or all of it where there is none
(41_framer_decode.md R164). -/
def Obligations.DecodeDiscardsGarbage : Prop :=
  ∀ (s : State) (garbage rest : List Byte), s.rxbuf = garbage ++ rest → garbage ≠ [] →
    (∀ b ∈ garbage, b ≠ s.cfg.som) → (rest = [] ∨ rest.head? = some s.cfg.som) →
    exec .decode s = .next (({ s with rxbuf := rest } : State).raised 0x10#8 0x01#8)

/-- E_LEN: a length out of range, or one byte too short for its trailer kind, costs the marker and what follows it
up to the next `SOM` (41_framer_decode.md R166, R167). -/
def Obligations.DecodeRejectsBadLength : Prop :=
  ∀ (s : State) (a lo hi : Byte) (tail skipped rest : List Byte) (len : Nat),
    s.rxbuf = s.cfg.som :: a :: lo :: hi :: tail → len = lo.toNat + 256 * hi.toNat →
    (len < 6 ∨ s.cfg.maxFrameLen < len ∨ (len = 6 ∧ ∃ k, tail.head? = some k ∧ k.getLsbD 2 = true)) →
    a :: lo :: hi :: tail = skipped ++ rest → (∀ b ∈ skipped, b ≠ s.cfg.som) →
    (rest = [] ∨ rest.head? = some s.cfg.som) →
    exec .decode s = .next (({ s with rxbuf := rest } : State).raised 0x11#8 0x02#8)

/-- E_TRL: a whole frame whose trailer does not verify is discarded, with what follows it up to the next `SOM`, and
nothing of it is delivered (41_framer_decode.md R169). -/
def Obligations.DecodeRejectsBadTrailer : Prop :=
  ∀ (s : State) (a lo hi k : Byte) (p trailer skipped rest : List Byte),
    s.rxbuf = s.cfg.som :: a :: lo :: hi :: k :: (p ++ trailer ++ skipped ++ rest) →
    5 + p.length + trailer.length = lo.toNat + 256 * hi.toNat →
    5 + p.length + trailer.length ≤ s.cfg.maxFrameLen →
    (k.getLsbD 2 = false ∧ trailer.length = 1 ∧ trailer ≠ [cksum (a :: k :: p)] ∨
      k.getLsbD 2 = true ∧ trailer.length = 2 ∧
        trailer ≠ [(crc16 s.cfg (a :: k :: p)).extractLsb' 0 8, (crc16 s.cfg (a :: k :: p)).extractLsb' 8 8]) →
    (∀ b ∈ skipped, b ≠ s.cfg.som) → (rest = [] ∨ rest.head? = some s.cfg.som) →
    exec .decode s = .next (({ s with rxbuf := rest } : State).raised 0x12#8 0x04#8)

/-- Delivery: a frame whose trailer verifies, that is one that `encode` gives, at the head of RXBUF is delivered by one
DECODE, exactly its bytes leave, and no scan follows (41_framer_decode.md R170; with nothing behind the frame this is
the round trip that the spec derives in 30_encoding.md R115). -/
def Obligations.DecodeDeliversEncodedFrame : Prop :=
  ∀ (s : State) (a k : Byte) (p rest : List Byte), s.cfg.maxFrameLen ≤ 65535 →
    5 + p.length + (if k.getLsbD 2 then 2 else 1) ≤ s.cfg.maxFrameLen →
    s.rxbuf = encodeFrame s.cfg a k p ++ rest →
    exec .decode s = .next (({ s with
      rxaddr := a, rxctrl := k, obuf := p, optr := 0#16, rxbuf := rest } : State).answered
        (BitVec.ofNat 8 p.length))

/-- Progress: with `MAX_FRAME_LEN` bytes received, DECODE does not answer NEED_MORE and removes at least one byte
(41_framer_decode.md R172). -/
def Obligations.DecodeMakesProgress : Prop :=
  ∀ s : State, s.cfg.valid → s.cfg.maxFrameLen ≤ s.rxbuf.length →
    ∃ t, exec .decode s = .next t ∧ t.env.resp ≠ some 0x0100#16 ∧ t.rxbuf.length < s.rxbuf.length

/-- Fault injection: of two frames in RXBUF, the first with its trailer changed, the first DECODE answers E_TRL and
leaves exactly the second, and the next delivers it (41_framer_decode.md R175). -/
def Obligations.DamagedTrailerCostsOneFrame : Prop :=
  ∀ (s : State) (a k a' k' : Byte) (p p' damaged trailer : List Byte), s.cfg.maxFrameLen ≤ 65535 →
    5 + p.length + (if k.getLsbD 2 then 2 else 1) ≤ s.cfg.maxFrameLen →
    5 + p'.length + (if k'.getLsbD 2 then 2 else 1) ≤ s.cfg.maxFrameLen →
    encodeFrame s.cfg a k p = (encodeFrame s.cfg a k p).take (5 + p.length) ++ trailer →
    damaged.length = trailer.length → damaged ≠ trailer →
    s.rxbuf = (encodeFrame s.cfg a k p).take (5 + p.length) ++ damaged ++ encodeFrame s.cfg a' k' p' →
    ∃ t u, exec .decode s = .next t ∧ exec .decode t = .next u ∧
      t = ({ s with rxbuf := encodeFrame s.cfg a' k' p' } : State).raised 0x12#8 0x04#8 ∧
      u = ({ t with rxaddr := a', rxctrl := k', obuf := p', optr := 0#16, rxbuf := [] } : State).answered
        (BitVec.ofNat 8 p'.length)

/-- A frame delivered, an E_LEN or an E_TRL stays the same outcome when more bytes have arrived behind; after the two
errors the scan goes on into the new bytes (41_framer_decode.md R176). -/
def Obligations.ArrivalsDoNotChangeTheOutcome : Prop :=
  ∀ (s t : State) (more : List Byte), exec .decode s = .next t →
    ((∃ d : Byte, t.env.resp = some (0x00#8 ++ d)) →
      exec .decode { s with rxbuf := s.rxbuf ++ more } = .next { t with rxbuf := t.rxbuf ++ more }) ∧
    (t.env.resp = some 0x1100#16 ∨ t.env.resp = some 0x1200#16 →
      exec .decode { s with rxbuf := s.rxbuf ++ more } =
        .next { t with rxbuf := (t.rxbuf ++ more).dropWhile (· != s.cfg.som) })

/-- The rows FRAME.CK and FRAME.CRC: where RXBUF has room, the frame's bytes are appended in order and nothing else
changes; where it has none, the step is not enabled. This reading of the two rows is the model's choice (log
entry 3). The bytes are those of 30_encoding.md R101 for a well-formed row. For a row that is not (a payload beyond
MAX_PAYLOAD, FRAME.CK with `CONTROL[2]` set, FRAME.CRC with it clear), which is no frame of R102, the row's own layout and
trailer are the model's choice (log entry 11). -/
def Obligations.FrameRowsReceiveTheirBytes : Prop :=
  ∀ (s : State) (a k : Byte) (p : List Byte),
    (s.rxbuf.length + (6 + p.length) ≤ s.cfg.rxbufSize → exec (.frameCk a k p) s = .next { s with
      rxbuf := s.rxbuf ++
        ([s.cfg.som, a, BitVec.ofNat 8 (6 + p.length), BitVec.ofNat 8 ((6 + p.length) / 256), k] ++ p ++
          [cksum (a :: k :: p)]) }) ∧
    (s.rxbuf.length + (7 + p.length) ≤ s.cfg.rxbufSize → exec (.frameCrc a k p) s = .next { s with
      rxbuf := s.rxbuf ++
        ([s.cfg.som, a, BitVec.ofNat 8 (7 + p.length), BitVec.ofNat 8 ((7 + p.length) / 256), k] ++ p ++
          [(crc16 s.cfg (a :: k :: p)).extractLsb' 0 8, (crc16 s.cfg (a :: k :: p)).extractLsb' 8 8]) }) ∧
    (s.cfg.rxbufSize < s.rxbuf.length + (6 + p.length) → exec (.frameCk a k p) s = .fault .rxchNotEnabled) ∧
    (s.cfg.rxbufSize < s.rxbuf.length + (7 + p.length) → exec (.frameCrc a k p) s = .fault .rxchNotEnabled)

/-- The row SPR: a region that fits IBUF is loaded into it whole and in order, as `le32(SEQ) ++ CT ++ TAG`
(30_encoding.md R112, R127); of a longer one the first BUF_SIZE bytes are, and the first PUSH that finds IBUF full raises
E_OVERFLOW, as every later one does (46_host_ops.md R305). That the row means this is the model's choice (log entry 3),
also where the tag is not TAG_LEN bytes and the row no region of R112 (log entry 11). -/
def Obligations.SprRowLoadsTheOperandBuffer : Prop :=
  ∀ (s : State) (seq : Word32) (ct tag bytes : List Byte),
    bytes = [seq.extractLsb' 0 8, seq.extractLsb' 8 8, seq.extractLsb' 16 8, seq.extractLsb' 24 8] ++ ct ++ tag →
    (bytes.length ≤ s.cfg.maxFrameLen →
      exec (.spr seq ct tag) s = .next (({ s with ibuf := bytes } : State).answered 0x00#8)) ∧
    (s.cfg.maxFrameLen < bytes.length →
      exec (.spr seq ct tag) s =
        .next (({ s with ibuf := bytes.take s.cfg.maxFrameLen } : State).raised 0x31#8 0x10#8))

/-! ## Secure channel: contexts and handshake -/

/-- SCSEL (43_secure_handshake.md R211). -/
def Obligations.ScselSelects : Prop :=
  CommandI 0x40#8 .scsel ∧
  ∀ (s : State) (imm : Byte),
    (s.cfg.nCtx ≤ imm.toNat → exec (.scsel imm) s = .next (s.raised 0x34#8 0x10#8)) ∧
    (imm.toNat < s.cfg.nCtx → exec (.scsel imm) s = .next (({ s with ctx := imm } : State).answered imm))

/-- SCSTAT and SCFAILS (43_secure_handshake.md R229, R230; the fields as 30_encoding.md R118). -/
def Obligations.ContextStatusCommands : Prop :=
  CommandN 0x41#8 .scstat ∧ CommandN 0x4E#8 .scfails ∧
  ∀ (s : State) (c : Context), s.selected c →
    exec .scfails s = .next (s.answered c.fails) ∧
    ∃ d : Byte, exec .scstat s = .next (s.answered d) ∧
      d.extractLsb' 0 2 = (match c.state with
        | .inactive => 0#2 | .negotiating => 1#2 | .active => 2#2 | .failed => 3#2) ∧
      (d.getLsbD 2 = true ↔ c.role = .responder) ∧
      d.extractLsb' 3 2 = (match c.phase with
        | .idle => 0#2 | .initAwaitReply => 1#2 | .initAwaitAck => 2#2 | .respAwaitVerify => 3#2) ∧
      d.getLsbD 5 = c.pskValid ∧ d >>> 6 = 0#8

/-- SCKEY (43_secure_handshake.md R212). -/
def Obligations.SckeyLoadsSecret : Prop :=
  CommandN 0x42#8 .sckey ∧
  ∀ (s : State) (c : Context), s.selected c →
    (c.state ≠ .inactive → exec .sckey s = .next (s.raised 0x20#8 0x08#8)) ∧
    (c.state = .inactive → s.ibuf.length ≠ s.cfg.keyLen → exec .sckey s = .next (s.raised 0x35#8 0x10#8)) ∧
    (c.state = .inactive → s.ibuf.length = s.cfg.keyLen →
      exec .sckey s = .next (({ s.withContext { c with psk := s.ibuf, pskValid := true } with
        ibuf := [] } : State).answered 0x00#8))

/-- SCCLR: legal in every state, it puts every field of the context at its reset value
(43_secure_handshake.md R213). -/
def Obligations.ScclrErasesContext : Prop :=
  CommandN 0x43#8 .scclr ∧
  ∀ (s : State) (c : Context), s.selected c →
    exec .scclr s = .next ((s.withContext {
      state := .inactive, role := .initiator, phase := .idle, psk := zeroBytes s.cfg.keyLen, pskValid := false,
      na := zeroBytes s.cfg.nonceLen, nb := zeroBytes s.cfg.nonceLen, kenc := zeroBytes s.cfg.keyLen,
      kmac := zeroBytes s.cfg.keyLen, seqTx := 0#32, seqRx := 0#32, fails := 0#8 }).answered 0x00#8)

/-- SCINIT (43_secure_handshake.md R214). The nonce is any `NONCE_LEN` bytes. That they are the bytes the entropy input
has ready, which it then drops, and free values beyond them, is the model's choice (log entry 5). -/
def Obligations.ScinitStartsHandshake : Prop :=
  CommandN 0x44#8 .scinit ∧
  ∀ (s : State) (c : Context), s.selected c →
    (c.state ≠ .inactive → exec .scinit s = .next (s.raised 0x20#8 0x08#8)) ∧
    (c.state = .inactive → c.pskValid = false → exec .scinit s = .next (s.raised 0x26#8 0x08#8)) ∧
    (c.state = .inactive → c.pskValid = true →
      ∃ (na : List Byte) (draws : Nat), na.length = s.cfg.nonceLen ∧
        (s.cfg.nonceLen ≤ s.env.entropy.length → na = s.env.entropy.take s.cfg.nonceLen) ∧
        exec .scinit s = .next (({ s.withContext { c with
            na := na, role := .initiator, phase := .initAwaitReply, state := .negotiating } with
          obuf := na, optr := 0#16
          env := { s.env with entropy := s.env.entropy.drop s.cfg.nonceLen, draws := draws } }
          : State).answered (BitVec.ofNat 8 s.cfg.nonceLen)))

/-- SCCHAL (43_secure_handshake.md R216). The nonce is any `NONCE_LEN` bytes. That they are the bytes the entropy input
has ready, which it then drops, and free values beyond them, is the model's choice (log entry 5). -/
def Obligations.ScchalAnswersChallenge : Prop :=
  CommandN 0x45#8 .scchal ∧
  ∀ (s : State) (c : Context), s.selected c →
    (c.state ≠ .inactive → exec .scchal s = .next (s.raised 0x20#8 0x08#8)) ∧
    (c.state = .inactive → c.pskValid = false → exec .scchal s = .next (s.raised 0x26#8 0x08#8)) ∧
    (c.state = .inactive → c.pskValid = true → s.ibuf.length ≠ s.cfg.nonceLen →
      exec .scchal s = .next (s.raised 0x35#8 0x10#8)) ∧
    (c.state = .inactive → c.pskValid = true → s.ibuf.length = s.cfg.nonceLen →
      ∃ (nb : List Byte) (draws : Nat), nb.length = s.cfg.nonceLen ∧
        (s.cfg.nonceLen ≤ s.env.entropy.length → nb = s.env.entropy.take s.cfg.nonceLen) ∧
        exec .scchal s = .next (({ s.withContext { c with
            na := s.ibuf, nb := nb, role := .responder, phase := .respAwaitVerify, state := .negotiating } with
          obuf := nb ++ (suiteOf s.cfg).resp c.psk s.ibuf nb, optr := 0#16
          env := { s.env with entropy := s.env.entropy.drop s.cfg.nonceLen, draws := draws } }
          : State).answered (BitVec.ofNat 8 (s.cfg.nonceLen + s.cfg.verifLen))))

/-- SCVRFY (43_secure_handshake.md R218, with `neg_fail` of R219). -/
def Obligations.ScvrfyChecksResponse : Prop :=
  CommandN 0x46#8 .scvrfy ∧
  ∀ (s : State) (c : Context), s.selected c →
    (¬(c.state = .negotiating ∧ c.role = .initiator ∧ c.phase = .initAwaitReply) →
      exec .scvrfy s = .next (s.raised 0x20#8 0x08#8)) ∧
    (c.state = .negotiating → c.role = .initiator → c.phase = .initAwaitReply →
      s.ibuf.length ≠ s.cfg.nonceLen + s.cfg.verifLen → exec .scvrfy s = .next (s.raised 0x35#8 0x10#8)) ∧
    (c.state = .negotiating → c.role = .initiator → c.phase = .initAwaitReply →
      ∀ nb rv, s.ibuf = nb ++ rv → nb.length = s.cfg.nonceLen → rv.length = s.cfg.verifLen →
        (rv ≠ (suiteOf s.cfg).resp c.psk c.na nb →
          exec .scvrfy s = .next ((s.withContext { c with nb := nb, state := .failed, phase := .idle }).raised
            0x21#8 0x08#8)) ∧
        (rv = (suiteOf s.cfg).resp c.psk c.na nb →
          exec .scvrfy s = .next (({ s.withContext { c with nb := nb, phase := .initAwaitAck } with
            obuf := (suiteOf s.cfg).initv c.psk c.na nb, optr := 0#16 } : State).answered
              (BitVec.ofNat 8 s.cfg.verifLen))))

/-- SCRVFY (43_secure_handshake.md R220, with `neg_fail` of R219 and `activate` of R224). -/
def Obligations.ScrvfyActivatesResponder : Prop :=
  CommandN 0x47#8 .scrvfy ∧
  ∀ (s : State) (c : Context), s.selected c →
    (¬(c.state = .negotiating ∧ c.role = .responder ∧ c.phase = .respAwaitVerify) →
      exec .scrvfy s = .next (s.raised 0x20#8 0x08#8)) ∧
    (c.state = .negotiating → c.role = .responder → c.phase = .respAwaitVerify →
      s.ibuf.length ≠ s.cfg.verifLen → exec .scrvfy s = .next (s.raised 0x35#8 0x10#8)) ∧
    (c.state = .negotiating → c.role = .responder → c.phase = .respAwaitVerify →
      s.ibuf.length = s.cfg.verifLen →
        (s.ibuf ≠ (suiteOf s.cfg).initv c.psk c.na c.nb →
          exec .scrvfy s = .next ((s.withContext { c with state := .failed, phase := .idle }).raised
            0x21#8 0x08#8)) ∧
        (s.ibuf = (suiteOf s.cfg).initv c.psk c.na c.nb →
          exec .scrvfy s = .next ((s.withContext { c with
            kenc := (suiteOf s.cfg).kdfEnc c.psk c.na c.nb, kmac := (suiteOf s.cfg).kdfMac c.psk c.na c.nb,
            seqTx := 0#32, seqRx := 0#32, fails := 0#8, phase := .idle, state := .active }).answered 0x00#8)))

/-- SCFIN (43_secure_handshake.md R222, with `neg_fail` of R219 and `activate` of R224). -/
def Obligations.ScfinTakesVerdict : Prop :=
  CommandI 0x48#8 .scfin ∧
  ∀ (s : State) (c : Context) (imm : Byte), s.selected c →
    (¬(c.state = .negotiating ∧ c.role = .initiator ∧ c.phase = .initAwaitAck) →
      exec (.scfin imm) s = .next (s.raised 0x20#8 0x08#8)) ∧
    (c.state = .negotiating → c.role = .initiator → c.phase = .initAwaitAck → imm.getLsbD 0 = false →
      exec (.scfin imm) s = .next ((s.withContext { c with state := .failed, phase := .idle }).raised
        0x21#8 0x08#8)) ∧
    (c.state = .negotiating → c.role = .initiator → c.phase = .initAwaitAck → imm.getLsbD 0 = true →
      exec (.scfin imm) s = .next ((s.withContext { c with
        kenc := (suiteOf s.cfg).kdfEnc c.psk c.na c.nb, kmac := (suiteOf s.cfg).kdfMac c.psk c.na c.nb,
        seqTx := 0#32, seqRx := 0#32, fails := 0#8, phase := .idle, state := .active }).answered 0x00#8))

/-- SCTMO and SCRETRY (43_secure_handshake.md R226, R227, with `clear_session` of R228). -/
def Obligations.TimeoutAndRetry : Prop :=
  CommandN 0x49#8 .sctmo ∧ CommandN 0x4A#8 .scretry ∧
  ∀ (s : State) (c : Context), s.selected c →
    (c.state ≠ .negotiating → exec .sctmo s = .next (s.raised 0x20#8 0x08#8)) ∧
    (c.state = .negotiating → exec .sctmo s = .next (({ s.withContext { c with
      state := .failed, phase := .idle } with eflags := s.eflags ||| 0x08#8 } : State).answered 0x00#8)) ∧
    (c.state ≠ .failed → exec .scretry s = .next (s.raised 0x20#8 0x08#8)) ∧
    (c.state = .failed → exec .scretry s = .next ((s.withContext { c with
      na := zeroBytes s.cfg.nonceLen, nb := zeroBytes s.cfg.nonceLen, kenc := zeroBytes s.cfg.keyLen,
      kmac := zeroBytes s.cfg.keyLen, seqTx := 0#32, seqRx := 0#32, fails := 0#8, phase := .idle,
      role := .initiator, state := .inactive }).answered 0x00#8))

/-! ## Secure channel: transport -/

/-- SCWRAP (44_secure_transport.md R241). -/
def Obligations.ScwrapProtects : Prop :=
  CommandN 0x4B#8 .scwrap ∧
  ∀ (s : State) (c : Context), s.selected c →
    (c.state ≠ .active → exec .scwrap s = .next (s.raised 0x20#8 0x08#8)) ∧
    (c.state = .active → s.cfg.maxFrameLen < s.ibuf.length + (4 + s.cfg.tagLen) →
      exec .scwrap s = .next (s.raised 0x31#8 0x10#8)) ∧
    (c.state = .active → s.ibuf.length + (4 + s.cfg.tagLen) ≤ s.cfg.maxFrameLen → c.seqTx = 0xFFFFFFFF#32 →
      exec .scwrap s = .next (s.raised 0x25#8 0x08#8)) ∧
    (c.state = .active → s.ibuf.length + (4 + s.cfg.tagLen) ≤ s.cfg.maxFrameLen → c.seqTx ≠ 0xFFFFFFFF#32 →
      ∀ seq, seq = c.seqTx + 1#32 →
      exec .scwrap s = .next (({ s.withContext { c with seqTx := seq } with
        obuf := [seq.extractLsb' 0 8, seq.extractLsb' 8 8, seq.extractLsb' 16 8, seq.extractLsb' 24 8] ++
          (suiteOf s.cfg).enc c.kenc (if c.role = .initiator then 0#1 else 1#1) seq s.ibuf ++
          (suiteOf s.cfg).mac c.kmac s.txaddr s.txctrl seq s.ibuf
        optr := 0#16 } : State).answered (BitVec.ofNat 8 (s.ibuf.length + (4 + s.cfg.tagLen)))))

/-- SCUNWRAP: the checks in their order, and the release (44_secure_transport.md R244, R245, R246). -/
def Obligations.ScunwrapAdmitsOnlyVerified : Prop :=
  CommandN 0x4C#8 .scunwrap ∧
  ∀ (s : State) (c : Context), s.selected c →
    (c.state ≠ .active → exec .scunwrap s = .next (s.raised 0x20#8 0x08#8)) ∧
    (c.state = .active → s.ibuf.length < 4 + s.cfg.tagLen →
      ∃ d, ScFailed s.cfg c d ∧ exec .scunwrap s = .next ((s.withContext d).raised 0x24#8 0x08#8)) ∧
    (c.state = .active → ∀ (q0 q1 q2 q3 : Byte) (ct tag pt : List Byte) (seq : Word32),
      s.ibuf = q0 :: q1 :: q2 :: q3 :: (ct ++ tag) → tag.length = s.cfg.tagLen → seq = q3 ++ q2 ++ q1 ++ q0 →
      pt = (suiteOf s.cfg).dec c.kenc (if c.role = .initiator then 1#1 else 0#1) seq ct →
        (seq ≤ c.seqRx →
          ∃ d, ScFailed s.cfg c d ∧ exec .scunwrap s = .next ((s.withContext d).raised 0x23#8 0x08#8)) ∧
        (c.seqRx < seq → (suiteOf s.cfg).mac c.kmac s.rxaddr s.rxctrl seq pt ≠ tag →
          ∃ d, ScFailed s.cfg c d ∧ exec .scunwrap s = .next ((s.withContext d).raised 0x22#8 0x08#8)) ∧
        (c.seqRx < seq → (suiteOf s.cfg).mac c.kmac s.rxaddr s.rxctrl seq pt = tag →
          exec .scunwrap s = .next (({ s.withContext { c with seqRx := seq, fails := 0#8 } with
            obuf := pt, optr := 0#16 } : State).answered (BitVec.ofNat 8 ct.length))))

/-- SCADMIT (44_secure_transport.md R248). -/
def Obligations.ScadmitRejectsSecureWithoutContext : Prop :=
  CommandN 0x4D#8 .scadmit ∧
  ∀ (s : State) (c : Context), s.selected c →
    (s.rxctrl.getLsbD 3 = true → (c.state = .inactive ∨ c.state = .failed) →
      exec .scadmit s = .next (s.raised 0x27#8 0x08#8)) ∧
    (s.rxctrl.getLsbD 3 = true → (c.state = .negotiating ∨ c.state = .active) →
      exec .scadmit s = .next (s.answered 0x01#8)) ∧
    (s.rxctrl.getLsbD 3 = false → exec .scadmit s = .next (s.answered 0x00#8))

/-- A frame number accepted once is rejected ever after: repeating a SCUNWRAP that answered OK answers E_SC_SEQ,
whatever header registers it is repeated with, and neither OBUF nor `seq_rx` changes (44_secure_transport.md R247). -/
def Obligations.ReplayIsRejected : Prop :=
  ∀ (s t : State) (d a k : Byte), exec .scunwrap s = .next t → t.env.resp = some (0x00#8 ++ d) →
    ∃ (u : State) (c c' : Context), exec .scunwrap { t with rxaddr := a, rxctrl := k } = .next u ∧
      u.env.resp = some 0x2300#16 ∧ u.obuf = t.obuf ∧ t.selected c ∧ u.selected c' ∧ c'.seqRx = c.seqRx

/-- What one end of an activated pair wraps, the other end unwraps to the plaintext (44_secure_transport.md R249):
the two ends hold the same keys and opposite roles, and the receiver has accepted no number as high. -/
def Obligations.UnwrapInvertsWrap : Prop :=
  ∀ (s t r : State) (i c : Context) (d : Byte), s.cfg.valid → r.cfg = s.cfg →
    s.selected i → exec .scwrap s = .next t → t.env.resp = some (0x00#8 ++ d) →
    r.selected c → c.state = .active → c.kenc = i.kenc → c.kmac = i.kmac → c.role ≠ i.role →
    c.seqRx < i.seqTx + 1#32 → r.rxaddr = s.txaddr → r.rxctrl = s.txctrl → r.ibuf = t.obuf →
    exec .scunwrap r = .next (({ r.withContext { c with seqRx := i.seqTx + 1#32, fails := 0#8 } with
      obuf := s.ibuf, optr := 0#16 } : State).answered (BitVec.ofNat 8 s.ibuf.length))

/-- The handshake: two contexts with the same secret, the messages moved unchanged, end Active with the same two
session keys, and no command of it raises a status (43_secure_handshake.md R231 (a)). -/
def Obligations.HandshakeReachesActive : Prop :=
  ∀ (s : State) (i r : Byte) (ci cr : Context), s.inv → i ≠ r →
    s.sc[i.toNat]? = some ci → s.sc[r.toNat]? = some cr → ci.state = .inactive → cr.state = .inactive →
    ci.pskValid = true → cr.pskValid = true → ci.psk = cr.psk →
    ∃ (t : State) (ti tr : Context),
      runInstrs [.scsel i, .scinit, .xfer, .scsel r, .scchal, .xfer, .scsel i, .scvrfy, .xfer,
        .scsel r, .scrvfy, .scsel i, .scfin 0x01#8] s = .next t ∧
      t.eflags = s.eflags ∧ t.env.resp = some 0x0000#16 ∧
      t.sc[i.toNat]? = some ti ∧ t.sc[r.toNat]? = some tr ∧ ti.state = .active ∧ tr.state = .active ∧
      ti.kenc = tr.kenc ∧ ti.kmac = tr.kmac ∧ ti.role = .initiator ∧ tr.role = .responder ∧
      ti.seqTx = 0#32 ∧ ti.seqRx = 0#32 ∧ tr.seqTx = 0#32 ∧ tr.seqRx = 0#32

/-- The cipher suites. Whatever suite a valid configuration has, the laws of 45_cipher_suite.md R262 and R263 hold. The
reference suite is that of R270: its four uses of the secret, the tag message (R276) and the keystream (R277) over the
CMAC of R274 and the AES of R271, whose published vectors R279 gives. The trivial suite is that of R266. What a valid
configuration is, log entry 4 says; that a suite is a table, log entry 6. -/
def Obligations.SuiteIsAsSpecified : Prop :=
  (∀ c : Cfg, c.valid → (suiteOf c).Lawful c) ∧
  (∀ (c : Cfg) (S : Suite) (k na nb text : List Byte) (a x : Byte) (d : BitVec 1) (seq : Word32),
    c.suite = .ref → S = suiteOf c →
    S.resp k na nb = cmac k ([0x01#8] ++ na ++ nb) ∧ S.initv k na nb = cmac k ([0x02#8] ++ na ++ nb) ∧
    S.kdfEnc k na nb = cmac k ([0x03#8] ++ na ++ nb) ∧ S.kdfMac k na nb = cmac k ([0x04#8] ++ na ++ nb) ∧
    S.mac k a x seq text = (cmac k ([a, x, seq.extractLsb' 0 8, seq.extractLsb' 8 8, seq.extractLsb' 16 8,
      seq.extractLsb' 24 8] ++ text)).take c.tagLen ∧
    S.dec k d seq text = S.enc k d seq text ∧
    ∀ (i : Nat) (b : Byte) (n : Word32), text[i]? = some b → n = BitVec.ofNat 32 (i / 16) →
      ∃ z, (aesEncrypt k [d.setWidth 8, 0#8, 0#8, 0#8, 0#8, 0#8, 0#8, 0#8,
          seq.extractLsb' 0 8, seq.extractLsb' 8 8, seq.extractLsb' 16 8, seq.extractLsb' 24 8,
          n.extractLsb' 0 8, n.extractLsb' 8 8, n.extractLsb' 16 8, n.extractLsb' 24 8])[i % 16]? = some z ∧
        (S.enc k d seq text)[i]? = some (b ^^^ z)) ∧
  (∀ (k last : List Byte) (blocks : List (List Byte)), (∀ b ∈ blocks, b.length = 16) →
    last.length ≤ 16 → (last = [] → blocks = []) →
    cmac k (blocks.flatten ++ last) = aesEncrypt k (xorBlock
      (blocks.foldl (fun x b => aesEncrypt k (xorBlock x b)) (zeroBytes 16))
      (if last.length = 16 then xorBlock last (dbl (aesEncrypt k (zeroBytes 16)))
        else xorBlock (last ++ [0x80#8] ++ zeroBytes (15 - last.length)) (dbl (dbl (aesEncrypt k (zeroBytes 16))))))) ∧
  (∀ k l k1 k2 : List Byte,
    k = [0x2B#8, 0x7E#8, 0x15#8, 0x16#8, 0x28#8, 0xAE#8, 0xD2#8, 0xA6#8,
      0xAB#8, 0xF7#8, 0x15#8, 0x88#8, 0x09#8, 0xCF#8, 0x4F#8, 0x3C#8] →
    l = [0x7D#8, 0xF7#8, 0x6B#8, 0x0C#8, 0x1A#8, 0xB8#8, 0x99#8, 0xB3#8,
      0x3E#8, 0x42#8, 0xF0#8, 0x47#8, 0xB9#8, 0x1B#8, 0x54#8, 0x6F#8] →
    k1 = [0xFB#8, 0xEE#8, 0xD6#8, 0x18#8, 0x35#8, 0x71#8, 0x33#8, 0x66#8,
      0x7C#8, 0x85#8, 0xE0#8, 0x8F#8, 0x72#8, 0x36#8, 0xA8#8, 0xDE#8] →
    k2 = [0xF7#8, 0xDD#8, 0xAC#8, 0x30#8, 0x6A#8, 0xE2#8, 0x66#8, 0xCC#8,
      0xF9#8, 0x0B#8, 0xC1#8, 0x1E#8, 0xE4#8, 0x6D#8, 0x51#8, 0x3B#8] →
    aesEncrypt k (zeroBytes 16) = l ∧ dbl l = k1 ∧ dbl k1 = k2 ∧
    aesEncrypt k [0x32#8, 0x43#8, 0xF6#8, 0xA8#8, 0x88#8, 0x5A#8, 0x30#8, 0x8D#8,
        0x31#8, 0x31#8, 0x98#8, 0xA2#8, 0xE0#8, 0x37#8, 0x07#8, 0x34#8] =
      [0x39#8, 0x25#8, 0x84#8, 0x1D#8, 0x02#8, 0xDC#8, 0x09#8, 0xFB#8,
        0xDC#8, 0x11#8, 0x85#8, 0x97#8, 0x19#8, 0x6A#8, 0x0B#8, 0x32#8]) ∧
  ∀ (c : Cfg) (S : Suite) (k na nb text : List Byte) (a x : Byte) (d : BitVec 1) (seq : Word32),
    c.suite = .null → S = suiteOf c →
    S.enc k d seq text = text ∧ S.dec k d seq text = text ∧ S.mac k a x seq text = zeroBytes c.tagLen ∧
    S.resp k na nb = zeroBytes c.verifLen ∧ S.initv k na nb = zeroBytes c.verifLen ∧
    S.kdfEnc k na nb = zeroBytes c.keyLen ∧ S.kdfMac k na nb = zeroBytes c.keyLen

/-! ## The whole machine -/

/-- The invariant holds after reset. -/
def Obligations.InvariantHoldsAtReset : Prop := State.reset.inv

/-- Every step of every agent keeps the invariant: the buffers within their capacities, `CTX < N_CTX`, the reserved
EFLAGS bits zero, and every context as 10_state.md R50 (a) to (d) says. -/
def Obligations.EveryStepKeepsInvariant : Prop := ∀ s t : State, s.inv → step s = .next t → t.inv

/-- No step changes the configuration (10_state.md R20). -/
def Obligations.NoStepChangesTheConfiguration : Prop := ∀ s t : State, step s = .next t → t.cfg = s.cfg

/-- A command neither reads nor writes a context other than the selected one: changing such a context before the
command is changing it after (10_state.md R52). RESET, which acts on all of them, is the exception. -/
def Obligations.ContextsAreIndependent : Prop :=
  ∀ (i : Instr) (s : State) (k : Nat) (x : Context), i ≠ .reset → k ≠ s.ctx.toNat →
    exec i { s with sc := s.sc.set k x } = mapNext (fun t => { t with sc := t.sc.set k x }) (exec i s)

/-- The state of a context changes only as the table of 43_secure_handshake.md R210 says. -/
def Obligations.ContextTransitions : Prop :=
  ∀ (i : Instr) (s t : State) (k : Nat) (c d : Context), exec i s = .next t → s.sc[k]? = some c → t.sc[k]? = some d →
    (d.state = c.state ∧ d.phase = c.phase ∧ d.role = c.role) ∨
    (i = .scinit ∧ c.state = .inactive ∧
      d.state = .negotiating ∧ d.role = .initiator ∧ d.phase = .initAwaitReply) ∨
    (i = .scchal ∧ c.state = .inactive ∧
      d.state = .negotiating ∧ d.role = .responder ∧ d.phase = .respAwaitVerify) ∨
    (i = .scvrfy ∧ c.state = .negotiating ∧ c.phase = .initAwaitReply ∧
      (d.state = .negotiating ∧ d.phase = .initAwaitAck ∨ d.state = .failed)) ∨
    (i = .scrvfy ∧ c.state = .negotiating ∧ c.phase = .respAwaitVerify ∧ (d.state = .active ∨ d.state = .failed)) ∨
    (∃ imm, i = .scfin imm ∧ c.state = .negotiating ∧ c.phase = .initAwaitAck ∧
      (imm.getLsbD 0 = true ∧ d.state = .active ∨ imm.getLsbD 0 = false ∧ d.state = .failed)) ∨
    (i = .sctmo ∧ c.state = .negotiating ∧ d.state = .failed) ∨
    (i = .scunwrap ∧ c.state = .active ∧ d.state = .failed ∧ s.cfg.scFailLimit ≤ d.fails.toNat) ∨
    (i = .scretry ∧ c.state = .failed ∧ d.state = .inactive) ∨
    ((i = .scclr ∨ i = .reset) ∧ d.state = .inactive ∧ d.pskValid = false)

/-- While a context stays Active its keys stay; what it has sent goes up by one with each SCWRAP of it that answers OK,
and otherwise stays; what it has accepted goes up with each SCUNWRAP of it that answers OK, and otherwise stays
(44_secure_transport.md R243, R247). -/
def Obligations.CountersRiseWhileActive : Prop :=
  ∀ (i : Instr) (s t : State) (k : Nat) (c d : Context), exec i s = .next t → s.sc[k]? = some c → t.sc[k]? = some d →
    c.state = .active → d.state = .active →
    d.kenc = c.kenc ∧ d.kmac = c.kmac ∧
    (d.seqTx = c.seqTx ∨ (i = .scwrap ∧ d.seqTx.toNat = c.seqTx.toNat + 1)) ∧
    (d.seqRx = c.seqRx ∨ (i = .scunwrap ∧ c.seqRx < d.seqRx)) ∧
    (k = s.ctx.toNat → AnswersOk t → i = .scwrap → d.seqTx.toNat = c.seqTx.toNat + 1) ∧
    (k = s.ctx.toNat → AnswersOk t → i = .scunwrap → c.seqRx < d.seqRx) ∧
    (k ≠ s.ctx.toNat ∨ ¬AnswersOk t → d.seqTx = c.seqTx ∧ d.seqRx = c.seqRx)

/-- EFLAGS (10_state.md R28). A command sets the flag of the class of the status it raises, SCTMO sets SC when it moves
a context to Failed, and no other bit changes; CLRFLAGS, RESET and hardware reset leave 0x00; nothing else clears a
flag; and the flags change no behaviour: an instruction run with other flags does the same to everything but EFLAGS,
RDFLAGS alone excepted. -/
def Obligations.FlagsAreStickyAndInert : Prop :=
  (∀ (i : Instr) (s : State), IsCommand i → i ≠ .clrflags → i ≠ .reset →
    ∃ (t : State) (code data : Byte), exec i s = .next t ∧ t.env.resp = some (code ++ data) ∧
      t.eflags = s.eflags |||
        (if code = 0x10#8 then 0x01#8 else if code = 0x11#8 then 0x02#8 else if code = 0x12#8 then 0x04#8
          else if code >>> 4 = 0x02#8 ∨ (i = .sctmo ∧ code = 0x00#8) then 0x08#8
          else if code >>> 4 = 0x03#8 then 0x10#8 else 0x00#8)) ∧
  (∀ s t : State, exec .clrflags s = .next t ∨ exec .reset s = .next t ∨ t = s.hardwareReset ∨ t = State.reset →
    t.eflags = 0x00#8) ∧
  (∀ (i : Instr) (s t : State), i ≠ .clrflags → i ≠ .reset → exec i s = .next t → s.eflags &&& t.eflags = s.eflags) ∧
  (∀ (i : Instr) (s : State) (e : Byte), i ≠ .rdflags →
    mapNext (fun t => { t with eflags := 0#8 }) (exec i { s with eflags := e }) =
      mapNext (fun t => { t with eflags := 0#8 }) (exec i s))

/-- Every command answers, at once, one status of the table of 60_exceptions.md R340, which of them is told by the
statements about the command; one that is not OK has data 0x00 (46_host_ops.md R318). -/
def Obligations.EveryCommandAnswersAStatus : Prop :=
  ∀ (i : Instr) (s : State), IsCommand i →
    ∃ (t : State) (code data : Byte), exec i s = .next t ∧ t.env.resp = some (code ++ data) ∧
      code ∈ [0x00#8, 0x01#8, 0x10#8, 0x11#8, 0x12#8, 0x20#8, 0x21#8, 0x22#8, 0x23#8, 0x24#8, 0x25#8, 0x26#8, 0x27#8,
        0x30#8, 0x31#8, 0x32#8, 0x33#8, 0x34#8, 0x35#8] ∧
      (code ≠ 0x00#8 → data = 0x00#8)
end

