-- ==== Sys2Proof/Laws/Bytes.lean ====
section
/-! SUPPORT. What the byte-order and slice helpers do. -/

namespace Sys2Proof.Machine

@[simp] theorem word16_eq_append (hi lo : Byte) : word16 hi lo = hi ++ lo := rfl

/-- Putting a low part under a high part is exact arithmetic. -/
theorem toNat_append_eq {n m : Nat} (x : BitVec n) (y : BitVec m) :
    (x ++ y).toNat = x.toNat * 2 ^ m + y.toNat := by
  rw [BitVec.toNat_append, ← Nat.shiftLeft_add_eq_or_of_lt y.isLt, Nat.shiftLeft_eq]

theorem toNat_append16 (hi lo : Byte) : BitVec.toNat (w := 16) (hi ++ lo) = hi.toNat * 256 + lo.toNat :=
  toNat_append_eq hi lo

theorem toNat_append32 (q0 q1 q2 q3 : Byte) : BitVec.toNat (w := 32) (q3 ++ q2 ++ q1 ++ q0) =
    ((q3.toNat * 256 + q2.toNat) * 256 + q1.toNat) * 256 + q0.toNat := by
  rw [show BitVec.toNat (w := 32) (q3 ++ q2 ++ q1 ++ q0) = _ from toNat_append_eq (q3 ++ q2 ++ q1) q0,
    toNat_append_eq (q3 ++ q2) q1, toNat_append_eq q3 q2]
  norm_num

@[simp] theorem highByte_append (hi lo : Byte) : highByte (hi ++ lo) = hi := by
  have := hi.isLt
  have := lo.isLt
  apply BitVec.eq_of_toNat_eq
  simp [highByte, toNat_append16, Nat.shiftRight_eq_div_pow]
  omega

@[simp] theorem lowByte_append (hi lo : Byte) : lowByte (hi ++ lo) = lo := by
  have := lo.isLt
  apply BitVec.eq_of_toNat_eq
  simp [lowByte, toNat_append16]
  omega

theorem lowByte_eq_extract (v : Word16) : lowByte v = v.extractLsb' 0 8 := by
  unfold lowByte
  ext i
  simp

theorem highByte_eq_extract (v : Word16) : highByte v = v.extractLsb' 8 8 := by
  unfold highByte
  ext i
  simp

theorem lowByte_toNat (v : Word16) : (lowByte v).toNat = v.toNat % 256 := by
  simp [lowByte]

theorem highByte_toNat (v : Word16) : (highByte v).toNat = v.toNat / 256 := by
  have := v.isLt
  simp [highByte, Nat.shiftRight_eq_div_pow]
  omega

theorem lenByte_eq_ofNat (n : Nat) : lenByte n = BitVec.ofNat 8 n := by
  apply BitVec.eq_of_toNat_eq
  simp [lenByte, lowByte_toNat, lenWord]

theorem lowByte_lenWord (n : Nat) : lowByte (lenWord n) = BitVec.ofNat 8 n := lenByte_eq_ofNat n

theorem highByte_lenWord (n : Nat) : highByte (lenWord n) = BitVec.ofNat 8 (n / 256) := by
  apply BitVec.eq_of_toNat_eq
  simp [highByte_toNat, lenWord]
  omega

/-- `from_le16(le16(v)) = v` (00_scope.md R10). -/
theorem fromLe16_le16 (v : Word16) : fromLe16 (lowByte v) (highByte v) = v.toNat := by
  simp only [fromLe16, lowByte_toNat, highByte_toNat]
  omega

theorem fromLe16_lenWord {n : Nat} (h : n ≤ 65535) :
    fromLe16 (lowByte (lenWord n)) (highByte (lenWord n)) = n := by
  rw [fromLe16_le16]
  simp only [lenWord, BitVec.toNat_ofNat]
  exact Nat.mod_eq_of_lt (by omega)

@[simp] theorem le16_length (v : Word16) : (le16 v).length = 2 := rfl

@[simp] theorem le32_length (v : Word32) : (le32 v).length = 4 := rfl

/-- `le32(v)`, byte by byte (00_scope.md R10). -/
theorem le32_eq_extract (v : Word32) :
    le32 v = [v.extractLsb' 0 8, v.extractLsb' 8 8, v.extractLsb' 16 8, v.extractLsb' 24 8] := by
  simp only [le32, List.cons.injEq, and_true]
  refine ⟨?_, ?_, ?_, ?_⟩ <;> (ext i; simp)

/-- `from_le32(le32(v)) = v`, whatever bytes follow (00_scope.md R10). -/
theorem fromLe32_le32_append (v : Word32) (rest : List Byte) : fromLe32 (le32 v ++ rest) = v := by
  have := v.isLt
  apply BitVec.eq_of_toNat_eq
  simp only [le32, fromLe32, byteAt, List.cons_append, List.getD_cons_zero, List.getD_cons_succ, toNat_append32,
    BitVec.toNat_setWidth, BitVec.toNat_ushiftRight, Nat.shiftRight_eq_div_pow]
  omega

theorem fromLe32_cons (q0 q1 q2 q3 : Byte) (rest : List Byte) :
    fromLe32 (q0 :: q1 :: q2 :: q3 :: rest) = q3 ++ q2 ++ q1 ++ q0 := rfl

@[simp] theorem slice_length (s : List Byte) (i n : Nat) : (slice s i n).length = min n (s.length - i) := by
  simp [slice]

@[simp] theorem xorBytes_length (a b : List Byte) : (xorBytes a b).length = min a.length b.length := by
  simp [xorBytes]

/-- Exclusive or with the same bytes twice changes nothing, when they are enough. -/
theorem xorBytes_xorBytes_cancel (a k : List Byte) (h : a.length ≤ k.length) :
    xorBytes (xorBytes a k) k = a := by
  induction a generalizing k with
  | nil => simp [xorBytes]
  | cons x a ih =>
    cases k with
    | nil => simp at h
    | cons y k =>
      have := ih k (by simpa using h)
      simp only [xorBytes, List.zipWith_cons_cons] at this ⊢
      rw [this, BitVec.xor_assoc, BitVec.xor_self, BitVec.xor_zero]

@[simp] theorem sprBytes_length (seq : Word32) (ct tag : List Byte) :
    (sprBytes seq ct tag).length = 4 + ct.length + tag.length := by
  simp [sprBytes]
  omega

/-- The three fields of a secure payload region are read back from it (30_encoding.md R112). -/
theorem sprSeq_sprBytes (seq : Word32) (ct tag : List Byte) : sprSeq (sprBytes seq ct tag) = seq := by
  rw [sprSeq, sprBytes, List.append_assoc, fromLe32_le32_append]

theorem sprTag_sprBytes (c : Cfg) (seq : Word32) (ct tag : List Byte) (h : tag.length = c.tagLen) :
    sprTag c (sprBytes seq ct tag) = tag := by
  unfold sprTag
  rw [sprBytes_length]
  have : 4 + ct.length + tag.length - c.tagLen = (le32 seq ++ ct).length := by simp; omega
  rw [this, sprBytes, List.drop_left]

theorem sprCt_sprBytes (c : Cfg) (seq : Word32) (ct tag : List Byte) (h : tag.length = c.tagLen) :
    sprCt c (sprBytes seq ct tag) = ct := by
  unfold sprCt slice secOvh
  rw [sprBytes_length]
  have h2 : 4 + ct.length + tag.length - (c.seqLen + c.tagLen) = ct.length := by
    simp only [Cfg.seqLen]; omega
  rw [h2, sprBytes, List.append_assoc]
  have h3 : c.seqLen = (le32 seq).length := rfl
  rw [h3, List.drop_left, List.take_left]

end Sys2Proof.Machine
end

