-- ==== Sys2Proof/Laws/State.lean ====
section
/-! SUPPORT. One lemma per field per update of the state and of a context, each true by unfolding, so that no later
proof unfolds a record update. -/

namespace Sys2Proof.Machine

/-! ### `State.respond` -/

@[simp] theorem State.respond_cfg (st : Status) (d : Byte) (s : State) : (s.respond st d).cfg = s.cfg := rfl
@[simp] theorem State.respond_txaddr (st : Status) (d : Byte) (s : State) : (s.respond st d).txaddr = s.txaddr := rfl
@[simp] theorem State.respond_txctrl (st : Status) (d : Byte) (s : State) : (s.respond st d).txctrl = s.txctrl := rfl
@[simp] theorem State.respond_rxaddr (st : Status) (d : Byte) (s : State) : (s.respond st d).rxaddr = s.rxaddr := rfl
@[simp] theorem State.respond_rxctrl (st : Status) (d : Byte) (s : State) : (s.respond st d).rxctrl = s.rxctrl := rfl
@[simp] theorem State.respond_ctx (st : Status) (d : Byte) (s : State) : (s.respond st d).ctx = s.ctx := rfl
@[simp] theorem State.respond_eflags (st : Status) (d : Byte) (s : State) : (s.respond st d).eflags = s.eflags := rfl
@[simp] theorem State.respond_cksacc (st : Status) (d : Byte) (s : State) : (s.respond st d).cksacc = s.cksacc := rfl
@[simp] theorem State.respond_crcacc (st : Status) (d : Byte) (s : State) : (s.respond st d).crcacc = s.crcacc := rfl
@[simp] theorem State.respond_ibuf (st : Status) (d : Byte) (s : State) : (s.respond st d).ibuf = s.ibuf := rfl
@[simp] theorem State.respond_obuf (st : Status) (d : Byte) (s : State) : (s.respond st d).obuf = s.obuf := rfl
@[simp] theorem State.respond_optr (st : Status) (d : Byte) (s : State) : (s.respond st d).optr = s.optr := rfl
@[simp] theorem State.respond_rxbuf (st : Status) (d : Byte) (s : State) : (s.respond st d).rxbuf = s.rxbuf := rfl
@[simp] theorem State.respond_txfifo (st : Status) (d : Byte) (s : State) : (s.respond st d).txfifo = s.txfifo := rfl
@[simp] theorem State.respond_sc (st : Status) (d : Byte) (s : State) : (s.respond st d).sc = s.sc := rfl
@[simp] theorem State.respond_events (st : Status) (d : Byte) (s : State) : (s.respond st d).env.events = s.env.events := rfl
@[simp] theorem State.respond_entropy (st : Status) (d : Byte) (s : State) : (s.respond st d).env.entropy = s.env.entropy := rfl
@[simp] theorem State.respond_draws (st : Status) (d : Byte) (s : State) : (s.respond st d).env.draws = s.env.draws := rfl
@[simp] theorem State.respond_resp (st : Status) (d : Byte) (s : State) : (s.respond st d).env.resp = some (word16 st.code d) := rfl
@[simp] theorem State.respond_wire (st : Status) (d : Byte) (s : State) : (s.respond st d).env.wire = s.env.wire := rfl

/-! ### `State.ok` -/

@[simp] theorem State.ok_cfg (d : Byte) (s : State) : (s.ok d).cfg = s.cfg := rfl
@[simp] theorem State.ok_txaddr (d : Byte) (s : State) : (s.ok d).txaddr = s.txaddr := rfl
@[simp] theorem State.ok_txctrl (d : Byte) (s : State) : (s.ok d).txctrl = s.txctrl := rfl
@[simp] theorem State.ok_rxaddr (d : Byte) (s : State) : (s.ok d).rxaddr = s.rxaddr := rfl
@[simp] theorem State.ok_rxctrl (d : Byte) (s : State) : (s.ok d).rxctrl = s.rxctrl := rfl
@[simp] theorem State.ok_ctx (d : Byte) (s : State) : (s.ok d).ctx = s.ctx := rfl
@[simp] theorem State.ok_eflags (d : Byte) (s : State) : (s.ok d).eflags = s.eflags := rfl
@[simp] theorem State.ok_cksacc (d : Byte) (s : State) : (s.ok d).cksacc = s.cksacc := rfl
@[simp] theorem State.ok_crcacc (d : Byte) (s : State) : (s.ok d).crcacc = s.crcacc := rfl
@[simp] theorem State.ok_ibuf (d : Byte) (s : State) : (s.ok d).ibuf = s.ibuf := rfl
@[simp] theorem State.ok_obuf (d : Byte) (s : State) : (s.ok d).obuf = s.obuf := rfl
@[simp] theorem State.ok_optr (d : Byte) (s : State) : (s.ok d).optr = s.optr := rfl
@[simp] theorem State.ok_rxbuf (d : Byte) (s : State) : (s.ok d).rxbuf = s.rxbuf := rfl
@[simp] theorem State.ok_txfifo (d : Byte) (s : State) : (s.ok d).txfifo = s.txfifo := rfl
@[simp] theorem State.ok_sc (d : Byte) (s : State) : (s.ok d).sc = s.sc := rfl
@[simp] theorem State.ok_events (d : Byte) (s : State) : (s.ok d).env.events = s.env.events := rfl
@[simp] theorem State.ok_entropy (d : Byte) (s : State) : (s.ok d).env.entropy = s.env.entropy := rfl
@[simp] theorem State.ok_draws (d : Byte) (s : State) : (s.ok d).env.draws = s.env.draws := rfl
@[simp] theorem State.ok_resp (d : Byte) (s : State) : (s.ok d).env.resp = some (word16 Status.ok.code d) := rfl
@[simp] theorem State.ok_wire (d : Byte) (s : State) : (s.ok d).env.wire = s.env.wire := rfl

/-! ### `State.setFlags` -/

@[simp] theorem State.setFlags_cfg (b : Byte) (s : State) : (s.setFlags b).cfg = s.cfg := rfl
@[simp] theorem State.setFlags_txaddr (b : Byte) (s : State) : (s.setFlags b).txaddr = s.txaddr := rfl
@[simp] theorem State.setFlags_txctrl (b : Byte) (s : State) : (s.setFlags b).txctrl = s.txctrl := rfl
@[simp] theorem State.setFlags_rxaddr (b : Byte) (s : State) : (s.setFlags b).rxaddr = s.rxaddr := rfl
@[simp] theorem State.setFlags_rxctrl (b : Byte) (s : State) : (s.setFlags b).rxctrl = s.rxctrl := rfl
@[simp] theorem State.setFlags_ctx (b : Byte) (s : State) : (s.setFlags b).ctx = s.ctx := rfl
@[simp] theorem State.setFlags_eflags (b : Byte) (s : State) : (s.setFlags b).eflags = s.eflags ||| b := rfl
@[simp] theorem State.setFlags_cksacc (b : Byte) (s : State) : (s.setFlags b).cksacc = s.cksacc := rfl
@[simp] theorem State.setFlags_crcacc (b : Byte) (s : State) : (s.setFlags b).crcacc = s.crcacc := rfl
@[simp] theorem State.setFlags_ibuf (b : Byte) (s : State) : (s.setFlags b).ibuf = s.ibuf := rfl
@[simp] theorem State.setFlags_obuf (b : Byte) (s : State) : (s.setFlags b).obuf = s.obuf := rfl
@[simp] theorem State.setFlags_optr (b : Byte) (s : State) : (s.setFlags b).optr = s.optr := rfl
@[simp] theorem State.setFlags_rxbuf (b : Byte) (s : State) : (s.setFlags b).rxbuf = s.rxbuf := rfl
@[simp] theorem State.setFlags_txfifo (b : Byte) (s : State) : (s.setFlags b).txfifo = s.txfifo := rfl
@[simp] theorem State.setFlags_sc (b : Byte) (s : State) : (s.setFlags b).sc = s.sc := rfl
@[simp] theorem State.setFlags_env (b : Byte) (s : State) : (s.setFlags b).env = s.env := rfl

/-! ### `State.raise` -/

@[simp] theorem State.raise_cfg (st : Status) (s : State) : (s.raise st).cfg = s.cfg := rfl
@[simp] theorem State.raise_txaddr (st : Status) (s : State) : (s.raise st).txaddr = s.txaddr := rfl
@[simp] theorem State.raise_txctrl (st : Status) (s : State) : (s.raise st).txctrl = s.txctrl := rfl
@[simp] theorem State.raise_rxaddr (st : Status) (s : State) : (s.raise st).rxaddr = s.rxaddr := rfl
@[simp] theorem State.raise_rxctrl (st : Status) (s : State) : (s.raise st).rxctrl = s.rxctrl := rfl
@[simp] theorem State.raise_ctx (st : Status) (s : State) : (s.raise st).ctx = s.ctx := rfl
@[simp] theorem State.raise_eflags (st : Status) (s : State) : (s.raise st).eflags = s.eflags ||| st.flag := rfl
@[simp] theorem State.raise_cksacc (st : Status) (s : State) : (s.raise st).cksacc = s.cksacc := rfl
@[simp] theorem State.raise_crcacc (st : Status) (s : State) : (s.raise st).crcacc = s.crcacc := rfl
@[simp] theorem State.raise_ibuf (st : Status) (s : State) : (s.raise st).ibuf = s.ibuf := rfl
@[simp] theorem State.raise_obuf (st : Status) (s : State) : (s.raise st).obuf = s.obuf := rfl
@[simp] theorem State.raise_optr (st : Status) (s : State) : (s.raise st).optr = s.optr := rfl
@[simp] theorem State.raise_rxbuf (st : Status) (s : State) : (s.raise st).rxbuf = s.rxbuf := rfl
@[simp] theorem State.raise_txfifo (st : Status) (s : State) : (s.raise st).txfifo = s.txfifo := rfl
@[simp] theorem State.raise_sc (st : Status) (s : State) : (s.raise st).sc = s.sc := rfl
@[simp] theorem State.raise_events (st : Status) (s : State) : (s.raise st).env.events = s.env.events := rfl
@[simp] theorem State.raise_entropy (st : Status) (s : State) : (s.raise st).env.entropy = s.env.entropy := rfl
@[simp] theorem State.raise_draws (st : Status) (s : State) : (s.raise st).env.draws = s.env.draws := rfl
@[simp] theorem State.raise_resp (st : Status) (s : State) : (s.raise st).env.resp = some (word16 st.code 0#8) := rfl
@[simp] theorem State.raise_wire (st : Status) (s : State) : (s.raise st).env.wire = s.env.wire := rfl

/-! ### `State.dropEvent` -/

@[simp] theorem State.dropEvent_cfg (s : State) : (s.dropEvent).cfg = s.cfg := rfl
@[simp] theorem State.dropEvent_txaddr (s : State) : (s.dropEvent).txaddr = s.txaddr := rfl
@[simp] theorem State.dropEvent_txctrl (s : State) : (s.dropEvent).txctrl = s.txctrl := rfl
@[simp] theorem State.dropEvent_rxaddr (s : State) : (s.dropEvent).rxaddr = s.rxaddr := rfl
@[simp] theorem State.dropEvent_rxctrl (s : State) : (s.dropEvent).rxctrl = s.rxctrl := rfl
@[simp] theorem State.dropEvent_ctx (s : State) : (s.dropEvent).ctx = s.ctx := rfl
@[simp] theorem State.dropEvent_eflags (s : State) : (s.dropEvent).eflags = s.eflags := rfl
@[simp] theorem State.dropEvent_cksacc (s : State) : (s.dropEvent).cksacc = s.cksacc := rfl
@[simp] theorem State.dropEvent_crcacc (s : State) : (s.dropEvent).crcacc = s.crcacc := rfl
@[simp] theorem State.dropEvent_ibuf (s : State) : (s.dropEvent).ibuf = s.ibuf := rfl
@[simp] theorem State.dropEvent_obuf (s : State) : (s.dropEvent).obuf = s.obuf := rfl
@[simp] theorem State.dropEvent_optr (s : State) : (s.dropEvent).optr = s.optr := rfl
@[simp] theorem State.dropEvent_rxbuf (s : State) : (s.dropEvent).rxbuf = s.rxbuf := rfl
@[simp] theorem State.dropEvent_txfifo (s : State) : (s.dropEvent).txfifo = s.txfifo := rfl
@[simp] theorem State.dropEvent_sc (s : State) : (s.dropEvent).sc = s.sc := rfl
@[simp] theorem State.dropEvent_events (s : State) : (s.dropEvent).env.events = s.env.events.tail := rfl
@[simp] theorem State.dropEvent_entropy (s : State) : (s.dropEvent).env.entropy = s.env.entropy := rfl
@[simp] theorem State.dropEvent_draws (s : State) : (s.dropEvent).env.draws = s.env.draws := rfl
@[simp] theorem State.dropEvent_resp (s : State) : (s.dropEvent).env.resp = s.env.resp := rfl
@[simp] theorem State.dropEvent_wire (s : State) : (s.dropEvent).env.wire = s.env.wire := rfl

/-! ### `State.pushEvent` -/

@[simp] theorem State.pushEvent_cfg (e : Event) (s : State) : (s.pushEvent e).cfg = s.cfg := rfl
@[simp] theorem State.pushEvent_txaddr (e : Event) (s : State) : (s.pushEvent e).txaddr = s.txaddr := rfl
@[simp] theorem State.pushEvent_txctrl (e : Event) (s : State) : (s.pushEvent e).txctrl = s.txctrl := rfl
@[simp] theorem State.pushEvent_rxaddr (e : Event) (s : State) : (s.pushEvent e).rxaddr = s.rxaddr := rfl
@[simp] theorem State.pushEvent_rxctrl (e : Event) (s : State) : (s.pushEvent e).rxctrl = s.rxctrl := rfl
@[simp] theorem State.pushEvent_ctx (e : Event) (s : State) : (s.pushEvent e).ctx = s.ctx := rfl
@[simp] theorem State.pushEvent_eflags (e : Event) (s : State) : (s.pushEvent e).eflags = s.eflags := rfl
@[simp] theorem State.pushEvent_cksacc (e : Event) (s : State) : (s.pushEvent e).cksacc = s.cksacc := rfl
@[simp] theorem State.pushEvent_crcacc (e : Event) (s : State) : (s.pushEvent e).crcacc = s.crcacc := rfl
@[simp] theorem State.pushEvent_ibuf (e : Event) (s : State) : (s.pushEvent e).ibuf = s.ibuf := rfl
@[simp] theorem State.pushEvent_obuf (e : Event) (s : State) : (s.pushEvent e).obuf = s.obuf := rfl
@[simp] theorem State.pushEvent_optr (e : Event) (s : State) : (s.pushEvent e).optr = s.optr := rfl
@[simp] theorem State.pushEvent_rxbuf (e : Event) (s : State) : (s.pushEvent e).rxbuf = s.rxbuf := rfl
@[simp] theorem State.pushEvent_txfifo (e : Event) (s : State) : (s.pushEvent e).txfifo = s.txfifo := rfl
@[simp] theorem State.pushEvent_sc (e : Event) (s : State) : (s.pushEvent e).sc = s.sc := rfl
@[simp] theorem State.pushEvent_events (e : Event) (s : State) : (s.pushEvent e).env.events = e :: s.env.events := rfl
@[simp] theorem State.pushEvent_entropy (e : Event) (s : State) : (s.pushEvent e).env.entropy = s.env.entropy := rfl
@[simp] theorem State.pushEvent_draws (e : Event) (s : State) : (s.pushEvent e).env.draws = s.env.draws := rfl
@[simp] theorem State.pushEvent_resp (e : Event) (s : State) : (s.pushEvent e).env.resp = s.env.resp := rfl
@[simp] theorem State.pushEvent_wire (e : Event) (s : State) : (s.pushEvent e).env.wire = s.env.wire := rfl

/-! ### `State.afterDraw` -/

@[simp] theorem State.afterDraw_cfg (n : Nat) (s : State) : (s.afterDraw n).cfg = s.cfg := rfl
@[simp] theorem State.afterDraw_txaddr (n : Nat) (s : State) : (s.afterDraw n).txaddr = s.txaddr := rfl
@[simp] theorem State.afterDraw_txctrl (n : Nat) (s : State) : (s.afterDraw n).txctrl = s.txctrl := rfl
@[simp] theorem State.afterDraw_rxaddr (n : Nat) (s : State) : (s.afterDraw n).rxaddr = s.rxaddr := rfl
@[simp] theorem State.afterDraw_rxctrl (n : Nat) (s : State) : (s.afterDraw n).rxctrl = s.rxctrl := rfl
@[simp] theorem State.afterDraw_ctx (n : Nat) (s : State) : (s.afterDraw n).ctx = s.ctx := rfl
@[simp] theorem State.afterDraw_eflags (n : Nat) (s : State) : (s.afterDraw n).eflags = s.eflags := rfl
@[simp] theorem State.afterDraw_cksacc (n : Nat) (s : State) : (s.afterDraw n).cksacc = s.cksacc := rfl
@[simp] theorem State.afterDraw_crcacc (n : Nat) (s : State) : (s.afterDraw n).crcacc = s.crcacc := rfl
@[simp] theorem State.afterDraw_ibuf (n : Nat) (s : State) : (s.afterDraw n).ibuf = s.ibuf := rfl
@[simp] theorem State.afterDraw_obuf (n : Nat) (s : State) : (s.afterDraw n).obuf = s.obuf := rfl
@[simp] theorem State.afterDraw_optr (n : Nat) (s : State) : (s.afterDraw n).optr = s.optr := rfl
@[simp] theorem State.afterDraw_rxbuf (n : Nat) (s : State) : (s.afterDraw n).rxbuf = s.rxbuf := rfl
@[simp] theorem State.afterDraw_txfifo (n : Nat) (s : State) : (s.afterDraw n).txfifo = s.txfifo := rfl
@[simp] theorem State.afterDraw_sc (n : Nat) (s : State) : (s.afterDraw n).sc = s.sc := rfl
@[simp] theorem State.afterDraw_events (n : Nat) (s : State) : (s.afterDraw n).env.events = s.env.events := rfl
@[simp] theorem State.afterDraw_entropy (n : Nat) (s : State) : (s.afterDraw n).env.entropy = s.env.entropy.drop n := rfl
@[simp] theorem State.afterDraw_draws (n : Nat) (s : State) : (s.afterDraw n).env.draws = s.env.draws + (n - s.env.entropy.length) := rfl
@[simp] theorem State.afterDraw_resp (n : Nat) (s : State) : (s.afterDraw n).env.resp = s.env.resp := rfl
@[simp] theorem State.afterDraw_wire (n : Nat) (s : State) : (s.afterDraw n).env.wire = s.env.wire := rfl

/-! ### `State.setIbuf` -/

@[simp] theorem State.setIbuf_cfg (x : List Byte) (s : State) : (s.setIbuf x).cfg = s.cfg := rfl
@[simp] theorem State.setIbuf_txaddr (x : List Byte) (s : State) : (s.setIbuf x).txaddr = s.txaddr := rfl
@[simp] theorem State.setIbuf_txctrl (x : List Byte) (s : State) : (s.setIbuf x).txctrl = s.txctrl := rfl
@[simp] theorem State.setIbuf_rxaddr (x : List Byte) (s : State) : (s.setIbuf x).rxaddr = s.rxaddr := rfl
@[simp] theorem State.setIbuf_rxctrl (x : List Byte) (s : State) : (s.setIbuf x).rxctrl = s.rxctrl := rfl
@[simp] theorem State.setIbuf_ctx (x : List Byte) (s : State) : (s.setIbuf x).ctx = s.ctx := rfl
@[simp] theorem State.setIbuf_eflags (x : List Byte) (s : State) : (s.setIbuf x).eflags = s.eflags := rfl
@[simp] theorem State.setIbuf_cksacc (x : List Byte) (s : State) : (s.setIbuf x).cksacc = s.cksacc := rfl
@[simp] theorem State.setIbuf_crcacc (x : List Byte) (s : State) : (s.setIbuf x).crcacc = s.crcacc := rfl
@[simp] theorem State.setIbuf_ibuf (x : List Byte) (s : State) : (s.setIbuf x).ibuf = x := rfl
@[simp] theorem State.setIbuf_obuf (x : List Byte) (s : State) : (s.setIbuf x).obuf = s.obuf := rfl
@[simp] theorem State.setIbuf_optr (x : List Byte) (s : State) : (s.setIbuf x).optr = s.optr := rfl
@[simp] theorem State.setIbuf_rxbuf (x : List Byte) (s : State) : (s.setIbuf x).rxbuf = s.rxbuf := rfl
@[simp] theorem State.setIbuf_txfifo (x : List Byte) (s : State) : (s.setIbuf x).txfifo = s.txfifo := rfl
@[simp] theorem State.setIbuf_sc (x : List Byte) (s : State) : (s.setIbuf x).sc = s.sc := rfl
@[simp] theorem State.setIbuf_env (x : List Byte) (s : State) : (s.setIbuf x).env = s.env := rfl

/-! ### `State.setObuf` -/

@[simp] theorem State.setObuf_cfg (x : List Byte) (s : State) : (s.setObuf x).cfg = s.cfg := rfl
@[simp] theorem State.setObuf_txaddr (x : List Byte) (s : State) : (s.setObuf x).txaddr = s.txaddr := rfl
@[simp] theorem State.setObuf_txctrl (x : List Byte) (s : State) : (s.setObuf x).txctrl = s.txctrl := rfl
@[simp] theorem State.setObuf_rxaddr (x : List Byte) (s : State) : (s.setObuf x).rxaddr = s.rxaddr := rfl
@[simp] theorem State.setObuf_rxctrl (x : List Byte) (s : State) : (s.setObuf x).rxctrl = s.rxctrl := rfl
@[simp] theorem State.setObuf_ctx (x : List Byte) (s : State) : (s.setObuf x).ctx = s.ctx := rfl
@[simp] theorem State.setObuf_eflags (x : List Byte) (s : State) : (s.setObuf x).eflags = s.eflags := rfl
@[simp] theorem State.setObuf_cksacc (x : List Byte) (s : State) : (s.setObuf x).cksacc = s.cksacc := rfl
@[simp] theorem State.setObuf_crcacc (x : List Byte) (s : State) : (s.setObuf x).crcacc = s.crcacc := rfl
@[simp] theorem State.setObuf_ibuf (x : List Byte) (s : State) : (s.setObuf x).ibuf = s.ibuf := rfl
@[simp] theorem State.setObuf_obuf (x : List Byte) (s : State) : (s.setObuf x).obuf = x := rfl
@[simp] theorem State.setObuf_optr (x : List Byte) (s : State) : (s.setObuf x).optr = 0#16 := rfl
@[simp] theorem State.setObuf_rxbuf (x : List Byte) (s : State) : (s.setObuf x).rxbuf = s.rxbuf := rfl
@[simp] theorem State.setObuf_txfifo (x : List Byte) (s : State) : (s.setObuf x).txfifo = s.txfifo := rfl
@[simp] theorem State.setObuf_sc (x : List Byte) (s : State) : (s.setObuf x).sc = s.sc := rfl
@[simp] theorem State.setObuf_env (x : List Byte) (s : State) : (s.setObuf x).env = s.env := rfl

/-! ### `State.clearIbuf` -/

@[simp] theorem State.clearIbuf_cfg (s : State) : (s.clearIbuf).cfg = s.cfg := rfl
@[simp] theorem State.clearIbuf_txaddr (s : State) : (s.clearIbuf).txaddr = s.txaddr := rfl
@[simp] theorem State.clearIbuf_txctrl (s : State) : (s.clearIbuf).txctrl = s.txctrl := rfl
@[simp] theorem State.clearIbuf_rxaddr (s : State) : (s.clearIbuf).rxaddr = s.rxaddr := rfl
@[simp] theorem State.clearIbuf_rxctrl (s : State) : (s.clearIbuf).rxctrl = s.rxctrl := rfl
@[simp] theorem State.clearIbuf_ctx (s : State) : (s.clearIbuf).ctx = s.ctx := rfl
@[simp] theorem State.clearIbuf_eflags (s : State) : (s.clearIbuf).eflags = s.eflags := rfl
@[simp] theorem State.clearIbuf_cksacc (s : State) : (s.clearIbuf).cksacc = s.cksacc := rfl
@[simp] theorem State.clearIbuf_crcacc (s : State) : (s.clearIbuf).crcacc = s.crcacc := rfl
@[simp] theorem State.clearIbuf_ibuf (s : State) : (s.clearIbuf).ibuf = [] := rfl
@[simp] theorem State.clearIbuf_obuf (s : State) : (s.clearIbuf).obuf = s.obuf := rfl
@[simp] theorem State.clearIbuf_optr (s : State) : (s.clearIbuf).optr = s.optr := rfl
@[simp] theorem State.clearIbuf_rxbuf (s : State) : (s.clearIbuf).rxbuf = s.rxbuf := rfl
@[simp] theorem State.clearIbuf_txfifo (s : State) : (s.clearIbuf).txfifo = s.txfifo := rfl
@[simp] theorem State.clearIbuf_sc (s : State) : (s.clearIbuf).sc = s.sc := rfl
@[simp] theorem State.clearIbuf_events (s : State) : (s.clearIbuf).env.events = s.env.events := rfl
@[simp] theorem State.clearIbuf_entropy (s : State) : (s.clearIbuf).env.entropy = s.env.entropy := rfl
@[simp] theorem State.clearIbuf_draws (s : State) : (s.clearIbuf).env.draws = s.env.draws := rfl
@[simp] theorem State.clearIbuf_resp (s : State) : (s.clearIbuf).env.resp = some (word16 Status.ok.code 0#8) := rfl
@[simp] theorem State.clearIbuf_wire (s : State) : (s.clearIbuf).env.wire = s.env.wire := rfl

/-! ### `State.receive` -/

@[simp] theorem State.receive_cfg (x : List Byte) (s : State) : (s.receive x).cfg = s.cfg := rfl
@[simp] theorem State.receive_txaddr (x : List Byte) (s : State) : (s.receive x).txaddr = s.txaddr := rfl
@[simp] theorem State.receive_txctrl (x : List Byte) (s : State) : (s.receive x).txctrl = s.txctrl := rfl
@[simp] theorem State.receive_rxaddr (x : List Byte) (s : State) : (s.receive x).rxaddr = s.rxaddr := rfl
@[simp] theorem State.receive_rxctrl (x : List Byte) (s : State) : (s.receive x).rxctrl = s.rxctrl := rfl
@[simp] theorem State.receive_ctx (x : List Byte) (s : State) : (s.receive x).ctx = s.ctx := rfl
@[simp] theorem State.receive_eflags (x : List Byte) (s : State) : (s.receive x).eflags = s.eflags := rfl
@[simp] theorem State.receive_cksacc (x : List Byte) (s : State) : (s.receive x).cksacc = s.cksacc := rfl
@[simp] theorem State.receive_crcacc (x : List Byte) (s : State) : (s.receive x).crcacc = s.crcacc := rfl
@[simp] theorem State.receive_ibuf (x : List Byte) (s : State) : (s.receive x).ibuf = s.ibuf := rfl
@[simp] theorem State.receive_obuf (x : List Byte) (s : State) : (s.receive x).obuf = s.obuf := rfl
@[simp] theorem State.receive_optr (x : List Byte) (s : State) : (s.receive x).optr = s.optr := rfl
@[simp] theorem State.receive_rxbuf (x : List Byte) (s : State) : (s.receive x).rxbuf = s.rxbuf ++ x := rfl
@[simp] theorem State.receive_txfifo (x : List Byte) (s : State) : (s.receive x).txfifo = s.txfifo := rfl
@[simp] theorem State.receive_sc (x : List Byte) (s : State) : (s.receive x).sc = s.sc := rfl
@[simp] theorem State.receive_env (x : List Byte) (s : State) : (s.receive x).env = s.env := rfl

/-! ### `State.setRxbuf` -/

@[simp] theorem State.setRxbuf_cfg (x : List Byte) (s : State) : (s.setRxbuf x).cfg = s.cfg := rfl
@[simp] theorem State.setRxbuf_txaddr (x : List Byte) (s : State) : (s.setRxbuf x).txaddr = s.txaddr := rfl
@[simp] theorem State.setRxbuf_txctrl (x : List Byte) (s : State) : (s.setRxbuf x).txctrl = s.txctrl := rfl
@[simp] theorem State.setRxbuf_rxaddr (x : List Byte) (s : State) : (s.setRxbuf x).rxaddr = s.rxaddr := rfl
@[simp] theorem State.setRxbuf_rxctrl (x : List Byte) (s : State) : (s.setRxbuf x).rxctrl = s.rxctrl := rfl
@[simp] theorem State.setRxbuf_ctx (x : List Byte) (s : State) : (s.setRxbuf x).ctx = s.ctx := rfl
@[simp] theorem State.setRxbuf_eflags (x : List Byte) (s : State) : (s.setRxbuf x).eflags = s.eflags := rfl
@[simp] theorem State.setRxbuf_cksacc (x : List Byte) (s : State) : (s.setRxbuf x).cksacc = s.cksacc := rfl
@[simp] theorem State.setRxbuf_crcacc (x : List Byte) (s : State) : (s.setRxbuf x).crcacc = s.crcacc := rfl
@[simp] theorem State.setRxbuf_ibuf (x : List Byte) (s : State) : (s.setRxbuf x).ibuf = s.ibuf := rfl
@[simp] theorem State.setRxbuf_obuf (x : List Byte) (s : State) : (s.setRxbuf x).obuf = s.obuf := rfl
@[simp] theorem State.setRxbuf_optr (x : List Byte) (s : State) : (s.setRxbuf x).optr = s.optr := rfl
@[simp] theorem State.setRxbuf_rxbuf (x : List Byte) (s : State) : (s.setRxbuf x).rxbuf = x := rfl
@[simp] theorem State.setRxbuf_txfifo (x : List Byte) (s : State) : (s.setRxbuf x).txfifo = s.txfifo := rfl
@[simp] theorem State.setRxbuf_sc (x : List Byte) (s : State) : (s.setRxbuf x).sc = s.sc := rfl
@[simp] theorem State.setRxbuf_env (x : List Byte) (s : State) : (s.setRxbuf x).env = s.env := rfl

/-! ### `State.transmit` -/

@[simp] theorem State.transmit_cfg (x : List Byte) (s : State) : (s.transmit x).cfg = s.cfg := rfl
@[simp] theorem State.transmit_txaddr (x : List Byte) (s : State) : (s.transmit x).txaddr = s.txaddr := rfl
@[simp] theorem State.transmit_txctrl (x : List Byte) (s : State) : (s.transmit x).txctrl = s.txctrl := rfl
@[simp] theorem State.transmit_rxaddr (x : List Byte) (s : State) : (s.transmit x).rxaddr = s.rxaddr := rfl
@[simp] theorem State.transmit_rxctrl (x : List Byte) (s : State) : (s.transmit x).rxctrl = s.rxctrl := rfl
@[simp] theorem State.transmit_ctx (x : List Byte) (s : State) : (s.transmit x).ctx = s.ctx := rfl
@[simp] theorem State.transmit_eflags (x : List Byte) (s : State) : (s.transmit x).eflags = s.eflags := rfl
@[simp] theorem State.transmit_cksacc (x : List Byte) (s : State) : (s.transmit x).cksacc = s.cksacc := rfl
@[simp] theorem State.transmit_crcacc (x : List Byte) (s : State) : (s.transmit x).crcacc = s.crcacc := rfl
@[simp] theorem State.transmit_ibuf (x : List Byte) (s : State) : (s.transmit x).ibuf = s.ibuf := rfl
@[simp] theorem State.transmit_obuf (x : List Byte) (s : State) : (s.transmit x).obuf = s.obuf := rfl
@[simp] theorem State.transmit_optr (x : List Byte) (s : State) : (s.transmit x).optr = s.optr := rfl
@[simp] theorem State.transmit_rxbuf (x : List Byte) (s : State) : (s.transmit x).rxbuf = s.rxbuf := rfl
@[simp] theorem State.transmit_txfifo (x : List Byte) (s : State) : (s.transmit x).txfifo = s.txfifo ++ x := rfl
@[simp] theorem State.transmit_sc (x : List Byte) (s : State) : (s.transmit x).sc = s.sc := rfl
@[simp] theorem State.transmit_env (x : List Byte) (s : State) : (s.transmit x).env = s.env := rfl

/-! ### `State.setContext` -/

@[simp] theorem State.setContext_cfg (c : Context) (s : State) : (s.setContext c).cfg = s.cfg := rfl
@[simp] theorem State.setContext_txaddr (c : Context) (s : State) : (s.setContext c).txaddr = s.txaddr := rfl
@[simp] theorem State.setContext_txctrl (c : Context) (s : State) : (s.setContext c).txctrl = s.txctrl := rfl
@[simp] theorem State.setContext_rxaddr (c : Context) (s : State) : (s.setContext c).rxaddr = s.rxaddr := rfl
@[simp] theorem State.setContext_rxctrl (c : Context) (s : State) : (s.setContext c).rxctrl = s.rxctrl := rfl
@[simp] theorem State.setContext_ctx (c : Context) (s : State) : (s.setContext c).ctx = s.ctx := rfl
@[simp] theorem State.setContext_eflags (c : Context) (s : State) : (s.setContext c).eflags = s.eflags := rfl
@[simp] theorem State.setContext_cksacc (c : Context) (s : State) : (s.setContext c).cksacc = s.cksacc := rfl
@[simp] theorem State.setContext_crcacc (c : Context) (s : State) : (s.setContext c).crcacc = s.crcacc := rfl
@[simp] theorem State.setContext_ibuf (c : Context) (s : State) : (s.setContext c).ibuf = s.ibuf := rfl
@[simp] theorem State.setContext_obuf (c : Context) (s : State) : (s.setContext c).obuf = s.obuf := rfl
@[simp] theorem State.setContext_optr (c : Context) (s : State) : (s.setContext c).optr = s.optr := rfl
@[simp] theorem State.setContext_rxbuf (c : Context) (s : State) : (s.setContext c).rxbuf = s.rxbuf := rfl
@[simp] theorem State.setContext_txfifo (c : Context) (s : State) : (s.setContext c).txfifo = s.txfifo := rfl
@[simp] theorem State.setContext_sc (c : Context) (s : State) : (s.setContext c).sc = s.sc.set s.ctx.toNat c := rfl
@[simp] theorem State.setContext_env (c : Context) (s : State) : (s.setContext c).env = s.env := rfl

/-! ### `Context.negFail` -/

@[simp] theorem Context.negFail_state (c : Context) : (c.negFail).state = .failed := rfl
@[simp] theorem Context.negFail_role (c : Context) : (c.negFail).role = c.role := rfl
@[simp] theorem Context.negFail_phase (c : Context) : (c.negFail).phase = .idle := rfl
@[simp] theorem Context.negFail_psk (c : Context) : (c.negFail).psk = c.psk := rfl
@[simp] theorem Context.negFail_pskValid (c : Context) : (c.negFail).pskValid = c.pskValid := rfl
@[simp] theorem Context.negFail_na (c : Context) : (c.negFail).na = c.na := rfl
@[simp] theorem Context.negFail_nb (c : Context) : (c.negFail).nb = c.nb := rfl
@[simp] theorem Context.negFail_kenc (c : Context) : (c.negFail).kenc = c.kenc := rfl
@[simp] theorem Context.negFail_kmac (c : Context) : (c.negFail).kmac = c.kmac := rfl
@[simp] theorem Context.negFail_seqTx (c : Context) : (c.negFail).seqTx = c.seqTx := rfl
@[simp] theorem Context.negFail_seqRx (c : Context) : (c.negFail).seqRx = c.seqRx := rfl
@[simp] theorem Context.negFail_fails (c : Context) : (c.negFail).fails = c.fails := rfl

/-! ### `Context.activate` -/

@[simp] theorem Context.activate_state (S : Suite) (c : Context) : (c.activate S).state = .active := rfl
@[simp] theorem Context.activate_role (S : Suite) (c : Context) : (c.activate S).role = c.role := rfl
@[simp] theorem Context.activate_phase (S : Suite) (c : Context) : (c.activate S).phase = .idle := rfl
@[simp] theorem Context.activate_psk (S : Suite) (c : Context) : (c.activate S).psk = c.psk := rfl
@[simp] theorem Context.activate_pskValid (S : Suite) (c : Context) : (c.activate S).pskValid = c.pskValid := rfl
@[simp] theorem Context.activate_na (S : Suite) (c : Context) : (c.activate S).na = c.na := rfl
@[simp] theorem Context.activate_nb (S : Suite) (c : Context) : (c.activate S).nb = c.nb := rfl
@[simp] theorem Context.activate_kenc (S : Suite) (c : Context) : (c.activate S).kenc = S.kdfEnc c.psk c.na c.nb := rfl
@[simp] theorem Context.activate_kmac (S : Suite) (c : Context) : (c.activate S).kmac = S.kdfMac c.psk c.na c.nb := rfl
@[simp] theorem Context.activate_seqTx (S : Suite) (c : Context) : (c.activate S).seqTx = 0#32 := rfl
@[simp] theorem Context.activate_seqRx (S : Suite) (c : Context) : (c.activate S).seqRx = 0#32 := rfl
@[simp] theorem Context.activate_fails (S : Suite) (c : Context) : (c.activate S).fails = 0#8 := rfl

/-! ### `Context.clearSession` -/

@[simp] theorem Context.clearSession_state (cfg : Cfg) (c : Context) : (c.clearSession cfg).state = c.state := rfl
@[simp] theorem Context.clearSession_role (cfg : Cfg) (c : Context) : (c.clearSession cfg).role = .initiator := rfl
@[simp] theorem Context.clearSession_phase (cfg : Cfg) (c : Context) : (c.clearSession cfg).phase = .idle := rfl
@[simp] theorem Context.clearSession_psk (cfg : Cfg) (c : Context) : (c.clearSession cfg).psk = c.psk := rfl
@[simp] theorem Context.clearSession_pskValid (cfg : Cfg) (c : Context) : (c.clearSession cfg).pskValid = c.pskValid := rfl
@[simp] theorem Context.clearSession_na (cfg : Cfg) (c : Context) : (c.clearSession cfg).na = zeroBytes cfg.nonceLen := rfl
@[simp] theorem Context.clearSession_nb (cfg : Cfg) (c : Context) : (c.clearSession cfg).nb = zeroBytes cfg.nonceLen := rfl
@[simp] theorem Context.clearSession_kenc (cfg : Cfg) (c : Context) : (c.clearSession cfg).kenc = zeroBytes cfg.keyLen := rfl
@[simp] theorem Context.clearSession_kmac (cfg : Cfg) (c : Context) : (c.clearSession cfg).kmac = zeroBytes cfg.keyLen := rfl
@[simp] theorem Context.clearSession_seqTx (cfg : Cfg) (c : Context) : (c.clearSession cfg).seqTx = 0#32 := rfl
@[simp] theorem Context.clearSession_seqRx (cfg : Cfg) (c : Context) : (c.clearSession cfg).seqRx = 0#32 := rfl
@[simp] theorem Context.clearSession_fails (cfg : Cfg) (c : Context) : (c.clearSession cfg).fails = 0#8 := rfl

/-! ### `State.resetBlock` and `State.hardwareReset` -/

@[simp] theorem State.resetBlock_cfg (s : State) : s.resetBlock.cfg = s.cfg := rfl
@[simp] theorem State.resetBlock_txaddr (s : State) : s.resetBlock.txaddr = 0#8 := rfl
@[simp] theorem State.resetBlock_txctrl (s : State) : s.resetBlock.txctrl = 0#8 := rfl
@[simp] theorem State.resetBlock_rxaddr (s : State) : s.resetBlock.rxaddr = 0#8 := rfl
@[simp] theorem State.resetBlock_rxctrl (s : State) : s.resetBlock.rxctrl = 0#8 := rfl
@[simp] theorem State.resetBlock_ctx (s : State) : s.resetBlock.ctx = 0#8 := rfl
@[simp] theorem State.resetBlock_eflags (s : State) : s.resetBlock.eflags = 0#8 := rfl
@[simp] theorem State.resetBlock_cksacc (s : State) : s.resetBlock.cksacc = 0#8 := rfl
@[simp] theorem State.resetBlock_crcacc (s : State) : s.resetBlock.crcacc = s.cfg.crcInit := rfl
@[simp] theorem State.resetBlock_ibuf (s : State) : s.resetBlock.ibuf = [] := rfl
@[simp] theorem State.resetBlock_obuf (s : State) : s.resetBlock.obuf = [] := rfl
@[simp] theorem State.resetBlock_optr (s : State) : s.resetBlock.optr = 0#16 := rfl
@[simp] theorem State.resetBlock_rxbuf (s : State) : s.resetBlock.rxbuf = [] := rfl
@[simp] theorem State.resetBlock_txfifo (s : State) : s.resetBlock.txfifo = [] := rfl
@[simp] theorem State.resetBlock_sc (s : State) : s.resetBlock.sc = List.replicate s.cfg.nCtx (Context.reset s.cfg) := rfl
@[simp] theorem State.hardwareReset_cfg (s : State) : s.hardwareReset.cfg = s.cfg := rfl
@[simp] theorem State.hardwareReset_txaddr (s : State) : s.hardwareReset.txaddr = 0#8 := rfl
@[simp] theorem State.hardwareReset_txctrl (s : State) : s.hardwareReset.txctrl = 0#8 := rfl
@[simp] theorem State.hardwareReset_rxaddr (s : State) : s.hardwareReset.rxaddr = 0#8 := rfl
@[simp] theorem State.hardwareReset_rxctrl (s : State) : s.hardwareReset.rxctrl = 0#8 := rfl
@[simp] theorem State.hardwareReset_ctx (s : State) : s.hardwareReset.ctx = 0#8 := rfl
@[simp] theorem State.hardwareReset_eflags (s : State) : s.hardwareReset.eflags = 0#8 := rfl
@[simp] theorem State.hardwareReset_cksacc (s : State) : s.hardwareReset.cksacc = 0#8 := rfl
@[simp] theorem State.hardwareReset_crcacc (s : State) : s.hardwareReset.crcacc = s.cfg.crcInit := rfl
@[simp] theorem State.hardwareReset_ibuf (s : State) : s.hardwareReset.ibuf = [] := rfl
@[simp] theorem State.hardwareReset_obuf (s : State) : s.hardwareReset.obuf = [] := rfl
@[simp] theorem State.hardwareReset_optr (s : State) : s.hardwareReset.optr = 0#16 := rfl
@[simp] theorem State.hardwareReset_rxbuf (s : State) : s.hardwareReset.rxbuf = [] := rfl
@[simp] theorem State.hardwareReset_txfifo (s : State) : s.hardwareReset.txfifo = [] := rfl
@[simp] theorem State.hardwareReset_sc (s : State) : s.hardwareReset.sc = List.replicate s.cfg.nCtx (Context.reset s.cfg) := rfl
@[simp] theorem State.resetBlock_env (s : State) : s.resetBlock.env = s.env := rfl
@[simp] theorem State.hardwareReset_events (s : State) : s.hardwareReset.env.events = s.env.events := rfl
@[simp] theorem State.hardwareReset_entropy (s : State) : s.hardwareReset.env.entropy = s.env.entropy := rfl
@[simp] theorem State.hardwareReset_draws (s : State) : s.hardwareReset.env.draws = s.env.draws := rfl
@[simp] theorem State.hardwareReset_resp (s : State) : s.hardwareReset.env.resp = none := rfl
@[simp] theorem State.hardwareReset_wire (s : State) : s.hardwareReset.env.wire = s.env.wire := rfl

end Sys2Proof.Machine
end

