-- ==== Sys2Proof/Laws/Ops.lean ====
section
/-! SUPPORT. What each shared operation can do, said once. -/

namespace Sys2Proof.Machine

/-! ## Responses -/

theorem State.ok_eq_answered (s : State) (d : Byte) : s.ok d = s.answered d := rfl

theorem State.respond_eq_replied (s : State) (st : Status) (d : Byte) : s.respond st d = s.replied st.code d := rfl

/-- Raising a status sets its flag and answers its code with data 0x00 (60_exceptions.md R356). -/
theorem State.raise_eq_raised (s : State) (st : Status) : s.raise st = s.raised st.code st.flag := rfl

/-- No flag outside EFLAGS bits 0 to 4 is ever set (10_state.md R28). -/
theorem Status.flag_reserved (st : Status) : st.flag &&& 0xE0#8 = 0#8 := by cases st <;> decide

/-! ## The entropy input -/

@[simp] theorem State.drawn_length (n : Nat) (s : State) : (s.drawn n).length = n := by simp [State.drawn]

/-- What is ready is what is drawn first (00_scope.md R11). -/
theorem State.drawn_eq_take (n : Nat) (s : State) (h : n ≤ s.env.entropy.length) :
    s.drawn n = s.env.entropy.take n := by
  apply List.ext_getElem
  · simp; omega
  · intro i h1 h2
    have hi : i < s.env.entropy.length := by simp at h1; omega
    simp [State.drawn, Env.entropyAt, List.getElem?_eq_getElem hi]

/-! ## The buffers -/

/-- PUSH either finds IBUF full and raises, or appends the byte (46_host_ops.md R305). -/
theorem State.pushByte_cases (b : Byte) (s : State) :
    (s.ibuf.length = s.cfg.maxFrameLen ∧ s.pushByte b = s.raise .overflow) ∨
    (s.ibuf.length ≠ s.cfg.maxFrameLen ∧ s.pushByte b = (s.setIbuf (s.ibuf ++ [b])).ok 0#8) := by
  by_cases h : s.ibuf.length = s.cfg.maxFrameLen
  · exact .inl ⟨h, if_pos h⟩
  · exact .inr ⟨h, if_neg h⟩

/-- PUSH touches IBUF, EFLAGS and the response, and nothing else. -/
theorem State.pushByte_frame (b : Byte) (s : State) :
    s.pushByte b = { s with
      ibuf := (s.pushByte b).ibuf, eflags := (s.pushByte b).eflags,
      env := { s.env with resp := (s.pushByte b).env.resp } } := by
  obtain ⟨-, h⟩ | ⟨-, h⟩ := s.pushByte_cases b <;> rw [h] <;> rfl

/-- The PUSHes of `LOAD`, when all the bytes fit: they go to IBUF in order (30_encoding.md R127). -/
theorem State.foldl_pushByte_of_le (bytes : List Byte) (s : State)
    (h : s.ibuf.length + bytes.length ≤ s.cfg.maxFrameLen) (hr : s.env.resp = some 0x0000#16) :
    bytes.foldl (fun t b => t.pushByte b) s = s.setIbuf (s.ibuf ++ bytes) := by
  induction bytes generalizing s with
  | nil => cases s; simp [State.setIbuf]
  | cons b bytes ih =>
    simp only [List.length_cons] at h
    have hne : s.ibuf.length ≠ s.cfg.maxFrameLen := by omega
    obtain ⟨h', -⟩ | ⟨-, hp⟩ := s.pushByte_cases b
    · exact absurd h' hne
    rw [List.foldl_cons, hp, ih]
    · obtain ⟨_, _, _, _, _, _, _, _, _, _, _, _, _, _, _, _, _, _, _, _⟩ := s
      simp_all [State.setIbuf, State.ok, State.respond, word16, Status.code]
    · simpa using by omega
    · rfl

/-- `LOAD` of bytes that fit leaves exactly them in IBUF, and answers OK (30_encoding.md R127). -/
theorem State.load_of_le (bytes : List Byte) (s : State) (h : bytes.length ≤ s.cfg.maxFrameLen) :
    s.load bytes = (s.setIbuf bytes).ok 0#8 := by
  rw [State.load, State.foldl_pushByte_of_le _ _ (by simpa using h) rfl]
  rfl

/-- Raising a status twice is raising it once. -/
@[simp] theorem State.raise_raise (s : State) (st : Status) : (s.raise st).raise st = s.raise st := by
  simp only [State.raise, State.setFlags, State.respond]
  rw [BitVec.or_assoc, BitVec.or_self]

/-- PUSHes into a full IBUF raise E_OVERFLOW and nothing else (46_host_ops.md R305). -/
theorem State.foldl_pushByte_of_full (bytes : List Byte) (s : State) (h : s.ibuf.length = s.cfg.maxFrameLen)
    (hb : bytes ≠ []) : bytes.foldl (fun t b => t.pushByte b) s = s.raise .overflow := by
  induction bytes generalizing s with
  | nil => exact absurd rfl hb
  | cons b bytes ih =>
    obtain ⟨-, hp⟩ | ⟨hn, -⟩ := s.pushByte_cases b
    · rw [List.foldl_cons, hp]
      by_cases hn : bytes = []
      · rw [hn, List.foldl_nil]
      · rw [ih _ (by simpa using h) hn, State.raise_raise]
    · exact absurd h hn

/-- `LOAD` of more than BUF_SIZE bytes leaves the first BUF_SIZE of them in IBUF, and answers E_OVERFLOW
(30_encoding.md R127, 46_host_ops.md R305). -/
theorem State.load_of_gt (bytes : List Byte) (s : State) (h : s.cfg.maxFrameLen < bytes.length) :
    s.load bytes = (s.setIbuf (bytes.take s.cfg.maxFrameLen)).raise .overflow := by
  rw [State.load]
  conv_lhs => rw [← List.take_append_drop s.cfg.maxFrameLen bytes]
  rw [List.foldl_append, State.foldl_pushByte_of_le (bytes.take _) s.clearIbuf (by simp) rfl,
    State.foldl_pushByte_of_full]
  · rfl
  · simpa using Nat.le_of_lt h
  · simpa using h

/-- Whatever `LOAD` is given, it touches IBUF, EFLAGS and the response, and nothing else, and IBUF stays within
BUF_SIZE. -/
theorem State.load_spec (bytes : List Byte) (s : State) :
    ∃ (left : List Byte) (e : Byte) (r : Option Word16),
      s.load bytes = { s with ibuf := left, eflags := e, env := { s.env with resp := r } } ∧
      left.length ≤ s.cfg.maxFrameLen ∧ s.eflags &&& e = s.eflags ∧
      (s.eflags &&& 0xE0#8 = 0#8 → e &&& 0xE0#8 = 0#8) := by
  rcases Nat.lt_or_ge s.cfg.maxFrameLen bytes.length with h | h
  · refine ⟨_, _, _, s.load_of_gt bytes h, List.length_take_le .., ?_, fun hz => ?_⟩
    · ext i hi
      simp
      exact fun h => .inl h
    · show (s.eflags ||| 0x10#8) &&& 0xE0#8 = 0#8
      rw [BitVec.and_comm, BitVec.and_or_distrib_left, BitVec.and_comm, hz]
      decide
  · exact ⟨_, _, _, s.load_of_le bytes h, h, BitVec.and_self, id⟩

/-- An RXCH step that answers a next state had room, and appended its bytes (41_framer_decode.md R160). -/
theorem State.rxSteps_next {bytes : List Byte} {s t : State} (h : s.rxSteps bytes = .next t) :
    s.rxbuf.length + bytes.length ≤ s.cfg.rxbufSize ∧ t = s.receive bytes := by
  unfold State.rxSteps at h
  split at h
  · rename_i hr
    exact ⟨hr, by cases h; rfl⟩
  · cases h

theorem State.rxSteps_of_le {bytes : List Byte} {s : State}
    (h : s.rxbuf.length + bytes.length ≤ s.cfg.rxbufSize) : s.rxSteps bytes = .next (s.receive bytes) := by
  simp [State.rxSteps, h]

theorem State.rxSteps_of_lt {bytes : List Byte} {s : State}
    (h : s.cfg.rxbufSize < s.rxbuf.length + bytes.length) : s.rxSteps bytes = .fault .rxchNotEnabled := by
  simp [State.rxSteps, h]

/-- A TXCH step that answers a next state took the head of TXFIFO (40_framer_encode.md R147). -/
theorem State.txStep_next {s t : State} (h : s.txStep = .next t) :
    ∃ b rest, s.txfifo = b :: rest ∧
      t = { s with txfifo := rest, env := { s.env with wire := s.env.wire ++ [b] } } := by
  unfold State.txStep at h
  split at h
  · cases h
  · rename_i b rest hq
    exact ⟨b, rest, hq, by cases h; rfl⟩

/-- POP has a byte to read exactly while OPTR is below OLEN (46_host_ops.md R307). -/
theorem State.popByte_eq_some_iff (s : State) (d : Byte) :
    s.popByte = some d ↔ s.obuf[s.optr.toNat]? = some d := Iff.rfl

/-- What an item that decodes to nothing does, when it answers a next state. -/
theorem State.undecoded_next {e : Encoded} {s t : State} (h : s.undecoded e = .next t) :
    (∃ w, e = .command w ∧ t = s.raise .opcode) ∨
    (∃ bytes, e = .line bytes ∧ s.rxbuf.length + bytes.length ≤ s.cfg.rxbufSize ∧ t = s.receive bytes) ∨
    (∃ bytes, e = .region bytes ∧ t = s.load bytes) := by
  cases e with
  | command w => exact .inl ⟨w, rfl, by cases h; rfl⟩
  | line bytes => exact .inr (.inl ⟨bytes, rfl, State.rxSteps_next h⟩)
  | region bytes => exact .inr (.inr ⟨bytes, rfl, by cases h; rfl⟩)

/-! ## The selected context -/

theorem State.context_of_selected {s : State} {c : Context} (h : s.selected c) : s.context = c := by
  simp [State.context, List.getD, h]

/-- Writing the selected context is seen by reading it, when there is one (10_state.md R52). -/
theorem State.context_setContext {s : State} (c : Context) (h : s.ctx.toNat < s.sc.length) :
    (s.setContext c).context = c := by
  simp [State.context, State.setContext, h]

/-- Writing the selected context leaves every other alone (10_state.md R52). -/
theorem State.setContext_other (s : State) (c : Context) {k : Nat} (h : k ≠ s.ctx.toNat) :
    (s.setContext c).sc[k]? = s.sc[k]? := by
  simp [State.setContext, List.getElem?_set_ne (Ne.symm h)]

/-- The context at any index, after the selected one is written. -/
theorem State.setContext_getElem? (s : State) (c : Context) (k : Nat) :
    (s.setContext c).sc[k]? =
      if k = s.ctx.toNat then (if k < s.sc.length then some c else none) else s.sc[k]? := by
  by_cases h : k = s.ctx.toNat
  · subst h
    by_cases h2 : s.ctx.toNat < s.sc.length
    · simp [State.setContext, h2]
    · simp [State.setContext, h2]
  · rw [State.setContext_other s c h, if_neg h]

/-- `min(fails + 1, 255)`, as a number (44_secure_transport.md R246). -/
theorem nextFails_toNat (f : Byte) : (nextFails f).toNat = min (f.toNat + 1) 255 := by
  simp only [nextFails, BitVec.toNat_ofNat]
  omega

/-- `sc_fail` counts, and at the limit fails the context and erases its keys (44_secure_transport.md R246). -/
theorem Context.scFail_cases (cfg : Cfg) (c : Context) :
    ((nextFails c.fails).toNat < cfg.scFailLimit ∧ c.scFail cfg = { c with fails := nextFails c.fails }) ∨
    (cfg.scFailLimit ≤ (nextFails c.fails).toNat ∧ c.scFail cfg = { c with
      fails := nextFails c.fails, state := .failed, phase := .idle,
      kenc := zeroBytes cfg.keyLen, kmac := zeroBytes cfg.keyLen }) := by
  by_cases h : cfg.scFailLimit ≤ (nextFails c.fails).toNat
  · exact .inr ⟨h, by simp [Context.scFail, h]⟩
  · exact .inl ⟨by omega, by simp [Context.scFail, h]⟩

theorem Context.scFail_scFailed (cfg : Cfg) (c : Context) : ScFailed cfg c (c.scFail cfg) := by
  refine ⟨nextFails c.fails, nextFails_toNat _, fun h => ?_, fun h => ?_⟩ <;>
    obtain ⟨h', e⟩ | ⟨h', e⟩ := c.scFail_cases cfg <;> first | exact e | omega

/-- The direction codes are 0 for what the initiator sends, 1 for what the responder sends (44_secure_transport.md
R240). -/
theorem Context.dirTx_eq (c : Context) : c.dirTx = if c.role = .initiator then 0#1 else 1#1 := by
  unfold Context.dirTx
  cases c.role <;> rfl

theorem Context.dirRx_eq (c : Context) : c.dirRx = if c.role = .initiator then 1#1 else 0#1 := by
  unfold Context.dirRx
  cases c.role <;> rfl

end Sys2Proof.Machine
end

