-- ==== Sys2Proof/Laws/Contexts.lean ====
section
/-! SUPPORT. What an instruction can do to the secure-channel contexts, said once: it leaves them all, or resets them
all, or writes the selected one in one of the ways of `ContextStep`. -/

namespace Sys2Proof.Machine

/-- The ways in which an instruction writes the selected context `c` of the state `s`, giving `d`; one line for each
row of the state table that writes (43_secure_handshake.md R210), and the two transport commands. -/
inductive ContextStep (s : State) (c : Context) : Instr → Context → Prop where
  /-- R212. -/
  | sckey : c.state = .inactive → s.ibuf.length = s.cfg.keyLen →
      ContextStep s c .sckey { c with psk := s.ibuf, pskValid := true }
  /-- R213. -/
  | scclr : ContextStep s c .scclr (Context.reset s.cfg)
  /-- R214. -/
  | scinit : c.state = .inactive → c.pskValid = true →
      ContextStep s c .scinit { c with
        na := s.drawn s.cfg.nonceLen, role := .initiator, phase := .initAwaitReply, state := .negotiating }
  /-- R216. -/
  | scchal : c.state = .inactive → c.pskValid = true → s.ibuf.length = s.cfg.nonceLen →
      ContextStep s c .scchal { c with
        na := s.ibuf, nb := s.drawn s.cfg.nonceLen, role := .responder, phase := .respAwaitVerify,
        state := .negotiating }
  /-- R218, the response does not verify. -/
  | scvrfyFail : c.waits .initiator .initAwaitReply → s.ibuf.length = s.cfg.nonceLen + s.cfg.verifLen →
      ContextStep s c .scvrfy { c with nb := s.ibuf.take s.cfg.nonceLen, state := .failed, phase := .idle }
  /-- R218, the response verifies. -/
  | scvrfy : c.waits .initiator .initAwaitReply → s.ibuf.length = s.cfg.nonceLen + s.cfg.verifLen →
      ContextStep s c .scvrfy { c with nb := s.ibuf.take s.cfg.nonceLen, phase := .initAwaitAck }
  /-- R220, the value does not verify. -/
  | scrvfyFail : c.waits .responder .respAwaitVerify → ContextStep s c .scrvfy c.negFail
  /-- R220, the value verifies. -/
  | scrvfy : c.waits .responder .respAwaitVerify → ContextStep s c .scrvfy (c.activate s.suite)
  /-- R222, the responder's verdict is bad. -/
  | scfinFail (imm : Byte) : c.waits .initiator .initAwaitAck → verdictOf imm = false →
      ContextStep s c (.scfin imm) c.negFail
  /-- R222, the responder's verdict is good. -/
  | scfin (imm : Byte) : c.waits .initiator .initAwaitAck → verdictOf imm = true →
      ContextStep s c (.scfin imm) (c.activate s.suite)
  /-- R226. -/
  | sctmo : c.state = .negotiating → ContextStep s c .sctmo c.negFail
  /-- R227. -/
  | scretry : c.state = .failed → ContextStep s c .scretry { c.clearSession s.cfg with state := .inactive }
  /-- 44_secure_transport.md R241. -/
  | scwrap : c.state = .active → c.seqTx ≠ 0xFFFFFFFF#32 → ContextStep s c .scwrap { c with seqTx := c.seqTx + 1#32 }
  /-- 44_secure_transport.md R244, one of the checks fails. -/
  | scunwrapFail : c.state = .active → ContextStep s c .scunwrap (c.scFail s.cfg)
  /-- 44_secure_transport.md R244, the message is released. -/
  | scunwrap : c.state = .active → c.seqRx < sprSeq s.ibuf →
      ContextStep s c .scunwrap { c with seqRx := sprSeq s.ibuf, fails := 0#8 }

/-- What an instruction that answers a next state has done to the contexts. -/
theorem exec_contexts {i : Instr} {s t : State} (h : exec i s = .next t) :
    t.sc = s.sc ∨ (i = .reset ∧ t.sc = List.replicate s.cfg.nCtx (Context.reset s.cfg)) ∨
    ∃ d, ContextStep s s.context i d ∧ t.sc = s.sc.set s.ctx.toNat d := by
  cases i
  all_goals simp only [exec] at h
  case reset => cases h; exact .inr (.inl ⟨rfl, rfl⟩)
  case push imm =>
    cases h
    obtain ⟨-, e⟩ | ⟨-, e⟩ := s.pushByte_cases imm <;> exact .inl (by rw [e]; rfl)
  case spr seq ct tag =>
    cases h
    obtain ⟨_, _, _, e, -⟩ := s.load_spec (sprBytes seq ct tag)
    exact .inl (by rw [e])
  case frameCk a k p => exact .inl (by rw [(State.rxSteps_next h).2]; rfl)
  case frameCrc a k p => exact .inl (by rw [(State.rxSteps_next h).2]; rfl)
  case sckey =>
    unfold execSckey at h
    split at h
    · cases h; exact .inl rfl
    split at h
    · cases h; exact .inl rfl
    rename_i h1 h2
    cases h
    exact .inr (.inr ⟨_, .sckey (not_not.mp h1) (not_not.mp h2), rfl⟩)
  case scclr => cases h; exact .inr (.inr ⟨_, .scclr, rfl⟩)
  case scinit =>
    unfold execScinit at h
    split at h
    · cases h; exact .inl rfl
    split at h
    · cases h; exact .inl rfl
    rename_i h1 h2
    cases h
    exact .inr (.inr ⟨_, .scinit (not_not.mp h1) (by simpa using h2), rfl⟩)
  case scchal =>
    unfold execScchal at h
    split at h
    · cases h; exact .inl rfl
    split at h
    · cases h; exact .inl rfl
    split at h
    · cases h; exact .inl rfl
    rename_i h1 h2 h3
    cases h
    exact .inr (.inr ⟨_, .scchal (not_not.mp h1) (by simpa using h2) (not_not.mp h3), rfl⟩)
  case scvrfy =>
    unfold execScvrfy at h
    split at h
    · cases h; exact .inl rfl
    split at h
    · cases h; exact .inl rfl
    rename_i h1 h2
    simp only at h
    split at h
    · cases h; exact .inr (.inr ⟨_, .scvrfyFail (not_not.mp h1) (not_not.mp h2), rfl⟩)
    · cases h; exact .inr (.inr ⟨_, .scvrfy (not_not.mp h1) (not_not.mp h2), rfl⟩)
  case scrvfy =>
    unfold execScrvfy at h
    split at h
    · cases h; exact .inl rfl
    split at h
    · cases h; exact .inl rfl
    rename_i h1 h2
    split at h
    · cases h; exact .inr (.inr ⟨_, .scrvfyFail (not_not.mp h1), rfl⟩)
    · cases h; exact .inr (.inr ⟨_, .scrvfy (not_not.mp h1), rfl⟩)
  case scfin imm =>
    unfold execScfin at h
    split at h
    · cases h; exact .inl rfl
    rename_i h1
    split at h
    · rename_i h2; cases h; exact .inr (.inr ⟨_, .scfin imm (not_not.mp h1) h2, rfl⟩)
    · rename_i h2; cases h; exact .inr (.inr ⟨_, .scfinFail imm (not_not.mp h1) (by simpa using h2), rfl⟩)
  case sctmo =>
    unfold execSctmo at h
    split at h
    · cases h; exact .inl rfl
    rename_i h1
    cases h
    exact .inr (.inr ⟨_, .sctmo (not_not.mp h1), rfl⟩)
  case scretry =>
    unfold execScretry at h
    split at h
    · cases h; exact .inl rfl
    rename_i h1
    cases h
    exact .inr (.inr ⟨_, .scretry (not_not.mp h1), rfl⟩)
  case scwrap =>
    simp only [execScwrap] at h
    split at h
    · cases h; exact .inl rfl
    split at h
    · cases h; exact .inl rfl
    split at h
    · cases h; exact .inl rfl
    rename_i h1 h2 h3
    cases h
    exact .inr (.inr ⟨_, .scwrap (not_not.mp h1) h3, rfl⟩)
  case scunwrap =>
    simp only [execScunwrap] at h
    split at h
    · cases h; exact .inl rfl
    rename_i h1
    split at h
    · cases h; exact .inr (.inr ⟨_, .scunwrapFail (not_not.mp h1), rfl⟩)
    split at h
    · cases h; exact .inr (.inr ⟨_, .scunwrapFail (not_not.mp h1), rfl⟩)
    split at h
    · cases h; exact .inr (.inr ⟨_, .scunwrapFail (not_not.mp h1), rfl⟩)
    rename_i h2 h3 h4
    cases h
    exact .inr (.inr ⟨_, .scunwrap (not_not.mp h1) (by simpa using h3), rfl⟩)
  all_goals first
    | (cases h; exact .inl rfl)
    | (simp only [execPop, execEncode, execDecode, execScsel, execScadmit] at h
       repeat' split at h
       all_goals (cases h; exact .inl rfl))

end Sys2Proof.Machine
end

