-- ==== Sys2Proof/Laws/Frame.lean ====
section
/-! SUPPORT. The framer's layout, its resynchronisation scan, and what one parser step can find. -/

namespace Sys2Proof.Machine

/-! ## Layout -/

theorem trailerLen_eq (ctrl : Byte) : trailerLen ctrl = if controlCrc ctrl then 2 else 1 := rfl

theorem trailerLen_pos (ctrl : Byte) : 1 ≤ trailerLen ctrl ∧ trailerLen ctrl ≤ 2 := by
  unfold trailerLen
  split <;> omega

/-- The trailer bytes of a frame (30_encoding.md R110, R111). -/
def trailerBytes (c : Cfg) (addr ctrl : Byte) (p : List Byte) : List Byte :=
  if controlCrc ctrl then le16 (crc16 c (covered addr ctrl p)) else [cksum (covered addr ctrl p)]

theorem trailerBytes_length (c : Cfg) (addr ctrl : Byte) (p : List Byte) :
    (trailerBytes c addr ctrl p).length = trailerLen ctrl := by
  unfold trailerBytes trailerLen
  split <;> simp

/-- A frame, byte by byte (40_framer_encode.md R140). -/
theorem encodeFrame_eq (c : Cfg) (addr ctrl : Byte) (p : List Byte) :
    encodeFrame c addr ctrl p =
      c.som :: addr :: lowByte (lenWord (frameLen ctrl p.length)) ::
        highByte (lenWord (frameLen ctrl p.length)) :: ctrl :: (p ++ trailerBytes c addr ctrl p) := by
  unfold encodeFrame trailerBytes frameLen trailerLen
  split <;> simp [frameCrcBytes, frameCkBytes, frameHeader, le16]

/-- A frame is as long as its length field says (30_encoding.md R106). -/
theorem encodeFrame_length (c : Cfg) (addr ctrl : Byte) (p : List Byte) :
    (encodeFrame c addr ctrl p).length = frameLen ctrl p.length := by
  rw [encodeFrame_eq]
  simp [trailerBytes_length, frameLen, hdrLen]
  omega

/-! ## Resynchronisation -/

/-- `resync_scan` leaves a tail of the buffer (41_framer_decode.md R162). -/
theorem resyncScan_length_le (c : Cfg) (buf : List Byte) : (resyncScan c buf).length ≤ buf.length :=
  List.length_dropWhile_le _ _

/-- What it leaves is empty or starts with `SOM` (41_framer_decode.md R162). -/
theorem resyncScan_head (c : Cfg) (buf : List Byte) :
    resyncScan c buf = [] ∨ (resyncScan c buf).head? = some c.som := by
  unfold resyncScan
  induction buf with
  | nil => simp
  | cons b buf ih =>
    rw [List.dropWhile_cons]
    split
    · exact ih
    · rename_i h
      right
      simpa using h

/-- Bytes that are not `SOM` are skipped, and the scan stops where `SOM` stands (41_framer_decode.md R162). -/
theorem resyncScan_append (c : Cfg) (skipped rest : List Byte) (h : ∀ b ∈ skipped, b ≠ c.som)
    (hr : rest = [] ∨ rest.head? = some c.som) : resyncScan c (skipped ++ rest) = rest := by
  unfold resyncScan
  induction skipped with
  | nil =>
    cases rest with
    | nil => rfl
    | cons b rest =>
      have hb : b = c.som := by simpa using hr
      simp [hb]
  | cons b skipped ih =>
    have hb : b ≠ c.som := h b (by simp)
    rw [List.cons_append, List.dropWhile_cons]
    simp only [bne_iff_ne, ne_eq, hb, not_false_eq_true, if_true]
    exact ih fun x hx => h x (by simp [hx])

/-- Scanning on into bytes that arrive behind what a scan left. -/
theorem resyncScan_append_more (c : Cfg) (buf more : List Byte) :
    resyncScan c (buf ++ more) = resyncScan c (resyncScan c buf ++ more) := by
  unfold resyncScan
  induction buf with
  | nil => simp
  | cons b buf ih =>
    by_cases hb : b = c.som
    · simp [hb]
    · simp only [List.cons_append, List.dropWhile_cons, bne_iff_ne, ne_eq, hb, not_false_eq_true, if_true]
      exact ih

/-- The scan drops at least the first byte when that is not `SOM` (41_framer_decode.md R164). -/
theorem resyncScan_lt (c : Cfg) (buf : List Byte) (h : buf ≠ []) (h0 : byteAt buf 0 ≠ c.som) :
    (resyncScan c buf).length < buf.length := by
  cases buf with
  | nil => exact absurd rfl h
  | cons b buf =>
    have hb : b ≠ c.som := h0
    unfold resyncScan
    rw [List.dropWhile_cons]
    simp only [bne_iff_ne, ne_eq, hb, not_false_eq_true, if_true, List.length_cons]
    exact Nat.lt_succ_of_le (List.length_dropWhile_le _ _)

/-! ## The trailer check -/

theorem byteAt_append_right (p l : List Byte) (i : Nat) : byteAt (p ++ l) (p.length + i) = byteAt l i := by
  simp [byteAt, List.getD_eq_getElem?_getD, List.getElem?_append_right]

theorem byteAt_append_length (p l : List Byte) : byteAt (p ++ l) p.length = byteAt l 0 :=
  byteAt_append_right p l 0

theorem byteAt_cons5 (b0 b1 b2 b3 b4 : Byte) (l : List Byte) (i : Nat) :
    byteAt (b0 :: b1 :: b2 :: b3 :: b4 :: l) (i + 5) = byteAt l i := rfl

/-- The check of step 8 compares the received trailer bytes with the computed ones (41_framer_decode.md R163,
R169). -/
theorem trailerGood_iff (c : Cfg) (a lo hi k : Byte) (p trailer tail : List Byte) (som : Byte)
    (ht : trailer.length = trailerLen k) :
    trailerGood c (som :: a :: lo :: hi :: k :: (p ++ trailer ++ tail)) (5 + p.length + trailer.length) = true ↔
      trailer = trailerBytes c a k p := by
  have hp : slice (som :: a :: lo :: hi :: k :: (p ++ trailer ++ tail)) hdrLen
      (5 + p.length + trailer.length - hdrLen - trailerLen k) = p := by
    have : 5 + p.length + trailer.length - hdrLen - trailerLen k = p.length := by simp only [hdrLen]; omega
    rw [this]
    simp [slice, hdrLen]
  have hk4 : byteAt (som :: a :: lo :: hi :: k :: (p ++ trailer ++ tail)) 4 = k := rfl
  have ha1 : byteAt (som :: a :: lo :: hi :: k :: (p ++ trailer ++ tail)) 1 = a := rfl
  unfold trailerGood trailerBytes
  simp only [hk4, ha1, hp]
  cases hk : controlCrc k with
  | false =>
    rw [trailerLen, hk] at ht
    obtain ⟨x, rfl⟩ : ∃ x, trailer = [x] := List.length_eq_one_iff.mp ht
    have e0 : byteAt (som :: a :: lo :: hi :: k :: (p ++ [x] ++ tail)) (5 + p.length + [x].length - 1) = x := by
      rw [show 5 + p.length + [x].length - 1 = p.length + 5 by simp; omega, byteAt_cons5, List.append_assoc,
        byteAt_append_length]
      rfl
    rw [e0]
    simp only [Bool.false_eq_true, if_false, beq_iff_eq, List.cons.injEq, and_true]
    exact eq_comm
  | true =>
    rw [trailerLen, hk] at ht
    obtain ⟨x, y, rfl⟩ : ∃ x y, trailer = [x, y] := List.length_eq_two.mp ht
    have e1 : byteAt (som :: a :: lo :: hi :: k :: (p ++ [x, y] ++ tail)) (5 + p.length + [x, y].length - 2) = x := by
      rw [show 5 + p.length + [x, y].length - 2 = p.length + 5 by simp; omega, byteAt_cons5, List.append_assoc,
        byteAt_append_length]
      rfl
    have e2 : byteAt (som :: a :: lo :: hi :: k :: (p ++ [x, y] ++ tail)) (5 + p.length + [x, y].length - 1) = y := by
      rw [show 5 + p.length + [x, y].length - 1 = p.length + 1 + 5 by simp; omega, byteAt_cons5, List.append_assoc,
        byteAt_append_right]
      rfl
    rw [e1, e2]
    have hxl := x.isLt
    have hyl := y.isLt
    simp only [if_true, beq_iff_eq, le16, List.cons.injEq, and_true]
    constructor
    · intro h
      rw [fromLe16] at h
      constructor <;> apply BitVec.eq_of_toNat_eq
      · rw [lowByte_toNat]
        omega
      · rw [highByte_toNat]
        omega
    · rintro ⟨rfl, rfl⟩
      exact (fromLe16_le16 _).symm

/-! ## One parser step -/

/-- Everything one parser step can find, and what it leaves (41_framer_decode.md R163 to R170). `B` is the buffer, and
a buffer from which a length was read is given as its five header bytes and the rest, or by its first four. -/
theorem parseFrame_cases (c : Cfg) (B : List Byte) :
    -- nothing received
    (B = [] ∧ parseFrame c B = .needMore) ∨
    -- E_ISM
    (B ≠ [] ∧ B.head? ≠ some c.som ∧ parseFrame c B = .badStart (resyncScan c B)) ∨
    -- fewer than four bytes
    (∃ tail, B = c.som :: tail ∧ tail.length < 3 ∧ parseFrame c B = .needMore) ∨
    (∃ (a lo hi : Byte) (tail : List Byte) (len : Nat),
      B = c.som :: a :: lo :: hi :: tail ∧ len = lo.toNat + 256 * hi.toNat ∧
      -- E_LEN, range form
      (((len < 6 ∨ c.maxFrameLen < len) ∧ parseFrame c B = .badLength (resyncScan c (a :: lo :: hi :: tail))) ∨
       -- CONTROL is not there yet
       (6 ≤ len ∧ len ≤ c.maxFrameLen ∧ tail = [] ∧ parseFrame c B = .needMore) ∨
       ∃ (k : Byte) (body : List Byte), tail = k :: body ∧ 6 ≤ len ∧ len ≤ c.maxFrameLen ∧
        -- E_LEN, trailer form
        ((len < 5 + trailerLen k ∧ parseFrame c B = .badLength (resyncScan c (a :: lo :: hi :: tail))) ∨
         -- the frame is not whole
         (5 + trailerLen k ≤ len ∧ 5 + body.length < len ∧ parseFrame c B = .needMore) ∨
         -- a whole frame: delivered, or E_TRL
         ∃ p trailer left : List Byte, body = p ++ trailer ++ left ∧ trailer.length = trailerLen k ∧
          len = 5 + p.length + trailer.length ∧
          ((trailer = trailerBytes c a k p ∧ parseFrame c B = .frame a k p left) ∨
           (trailer ≠ trailerBytes c a k p ∧ parseFrame c B = .badTrailer (resyncScan c left)))))) := by
  rcases B with _ | ⟨b0, tl⟩
  · exact .inl ⟨rfl, rfl⟩
  right
  by_cases hs : b0 = c.som
  swap
  · left
    refine ⟨by simp, by simpa using hs, ?_⟩
    simp [parseFrame, byteAt, hs]
  right
  subst hs
  have h0 : (byteAt (c.som :: tl) 0 != c.som) = false := by simp [byteAt]
  by_cases h3 : tl.length < 3
  · left
    exact ⟨tl, rfl, h3, by
      simp [parseFrame, h0]
      intro
      omega⟩
  right
  obtain ⟨a, lo, hi, tail, rfl⟩ : ∃ a lo hi tail, tl = a :: lo :: hi :: tail := by
    rcases tl with _ | ⟨a, _ | ⟨lo, _ | ⟨hi, tail⟩⟩⟩
    all_goals first | (simp at h3; done) | exact ⟨_, _, _, _, rfl⟩
  refine ⟨a, lo, hi, tail, _, rfl, rfl, ?_⟩
  have hl4 : ¬ (c.som :: a :: lo :: hi :: tail).length < 4 := by simp
  have hpf : parseFrame c (c.som :: a :: lo :: hi :: tail) =
      if lo.toNat + 256 * hi.toNat < 6 ∨ c.maxFrameLen < lo.toNat + 256 * hi.toNat then
        .badLength (resyncScan c (a :: lo :: hi :: tail))
      else parseBody c (c.som :: a :: lo :: hi :: tail) (lo.toNat + 256 * hi.toNat) := by
    unfold parseFrame
    simp only [List.length_cons, Nat.add_eq_zero_iff, one_ne_zero, and_false, if_false, h0, Bool.false_eq_true]
    rw [if_neg (by omega)]
    simp only [byteAt, List.getD_cons_zero, List.getD_cons_succ, fromLe16, Bool.or_eq_true, decide_eq_true_eq,
      List.drop_succ_cons, List.drop_zero]
  rw [hpf]
  generalize lo.toNat + 256 * hi.toNat = len
  by_cases hr : len < 6 ∨ c.maxFrameLen < len
  · left
    exact ⟨hr, if_pos hr⟩
  right
  rw [if_neg hr]
  have h6 : 6 ≤ len := by omega
  have hM : len ≤ c.maxFrameLen := by omega
  rcases tail with _ | ⟨k, body⟩
  · left
    refine ⟨h6, hM, rfl, ?_⟩
    simp [parseBody, hdrLen]
  right
  refine ⟨k, body, rfl, h6, hM, ?_⟩
  have hk : byteAt (c.som :: a :: lo :: hi :: k :: body) 4 = k := rfl
  have ha : byteAt (c.som :: a :: lo :: hi :: k :: body) 1 = a := rfl
  have hpb : parseBody c (c.som :: a :: lo :: hi :: k :: body) len =
      if len < 5 + trailerLen k then .badLength (resyncScan c (a :: lo :: hi :: k :: body))
      else if body.length + 5 < len then .needMore
      else if trailerGood c (c.som :: a :: lo :: hi :: k :: body) len then
        .frame a k (slice (c.som :: a :: lo :: hi :: k :: body) hdrLen (len - hdrLen - trailerLen k))
          ((c.som :: a :: lo :: hi :: k :: body).drop len)
      else .badTrailer (resyncScan c ((c.som :: a :: lo :: hi :: k :: body).drop len)) := by
    unfold parseBody
    simp only [hk, ha, List.length_cons, hdrLen]
    rw [if_neg (by omega)]
    rfl
  rw [hpb]
  by_cases h7 : len < 5 + trailerLen k
  · left
    exact ⟨h7, if_pos h7⟩
  right
  rw [if_neg h7]
  by_cases hw : 5 + body.length < len
  · left
    exact ⟨by omega, hw, if_pos (by omega)⟩
  right
  rw [if_neg (by omega)]
  have htl := trailerLen_pos k
  refine ⟨body.take (len - 5 - trailerLen k), (body.drop (len - 5 - trailerLen k)).take (trailerLen k),
    body.drop (len - 5), ?_, ?_, ?_, ?_⟩
  · rw [List.append_assoc]
    conv_lhs => rw [← List.take_append_drop (len - 5 - trailerLen k) body,
      ← List.take_append_drop (trailerLen k) (body.drop (len - 5 - trailerLen k)), List.drop_drop]
    rw [show len - 5 - trailerLen k + trailerLen k = len - 5 by omega]
  · simp
    omega
  · simp
    omega
  generalize hp : body.take (len - 5 - trailerLen k) = p
  generalize ht : (body.drop (len - 5 - trailerLen k)).take (trailerLen k) = trailer
  have hleft : (c.som :: a :: lo :: hi :: k :: body).drop len = body.drop (len - 5) := by
    conv_lhs => rw [show len = (len - 5) + 5 by omega]
    rfl
  have hsl : slice (c.som :: a :: lo :: hi :: k :: body) hdrLen (len - hdrLen - trailerLen k) = p := by
    rw [← hp]; rfl
  rw [hleft, hsl]
  have hbody : body = p ++ trailer ++ body.drop (len - 5) := by
    rw [List.append_assoc, ← hp, ← ht]
    conv_lhs => rw [← List.take_append_drop (len - 5 - trailerLen k) body,
      ← List.take_append_drop (trailerLen k) (body.drop (len - 5 - trailerLen k)), List.drop_drop]
    rw [show len - 5 - trailerLen k + trailerLen k = len - 5 by omega]
  have htlen : trailer.length = trailerLen k := by rw [← ht]; simp; omega
  have hplen : len = 5 + p.length + trailer.length := by rw [htlen, ← hp]; simp; omega
  have hg := trailerGood_iff c a lo hi k p trailer (body.drop (len - 5)) c.som htlen
  rw [← hbody, ← hplen] at hg
  by_cases he : trailer = trailerBytes c a k p
  · exact .inl ⟨he, if_pos (hg.mpr he)⟩
  · exact .inr ⟨he, if_neg (fun h => he (hg.mp h))⟩

end Sys2Proof.Machine
end

