-- ==== Sys2Proof/Laws/Memory.lean ====
section
/-! SUPPORT. Every operation over the buffers keeps them within their capacities (`Memory.wf`), and reset has it; and
what a write leaves of the bytes of a buffer. -/

namespace Sys2Proof.Machine

theorem Memory.wf_reset : Memory.wf State.reset := by decide

theorem Memory.wf_respond {s : State} (h : Memory.wf s) (st : Status) (d : Byte) : Memory.wf (s.respond st d) := h

theorem Memory.wf_raise {s : State} (h : Memory.wf s) (st : Status) : Memory.wf (s.raise st) := h

theorem Memory.wf_setContext {s : State} (h : Memory.wf s) (c : Context) : Memory.wf (s.setContext c) := h

theorem Memory.wf_afterDraw {s : State} (h : Memory.wf s) (n : Nat) : Memory.wf (s.afterDraw n) := h

theorem Memory.wf_setIbuf {s : State} (h : Memory.wf s) {bytes : List Byte} (hb : bytes.length ≤ s.cfg.bufSize) :
    Memory.wf (s.setIbuf bytes) := ⟨hb, h.2⟩

theorem Memory.wf_setObuf {s : State} (h : Memory.wf s) {bytes : List Byte} (hb : bytes.length ≤ s.cfg.bufSize) :
    Memory.wf (s.setObuf bytes) := ⟨h.1, hb, Nat.zero_le _, h.2.2.2⟩

theorem Memory.wf_setRxbuf {s : State} (h : Memory.wf s) {left : List Byte} (hl : left.length ≤ s.cfg.rxbufSize) :
    Memory.wf (s.setRxbuf left) := ⟨h.1, h.2.1, h.2.2.1, hl, h.2.2.2.2⟩

theorem Memory.wf_clearIbuf {s : State} (h : Memory.wf s) : Memory.wf s.clearIbuf := ⟨Nat.zero_le _, h.2⟩

theorem Memory.wf_pushByte {s : State} (h : Memory.wf s) (b : Byte) : Memory.wf (s.pushByte b) := by
  obtain ⟨-, e⟩ | ⟨hne, e⟩ := s.pushByte_cases b <;> rw [e]
  · exact h
  · refine ⟨?_, h.2⟩
    have := h.1
    simp only [State.ok_ibuf, State.setIbuf_ibuf, List.length_append, List.length_singleton, State.ok_cfg,
      State.setIbuf_cfg, Cfg.bufSize] at *
    omega

theorem Memory.wf_load {s : State} (h : Memory.wf s) (bytes : List Byte) : Memory.wf (s.load bytes) := by
  obtain ⟨left, e, r, he, hl, -⟩ := s.load_spec bytes
  rw [he]
  exact ⟨hl, h.2⟩

theorem Memory.wf_receive {s : State} (h : Memory.wf s) {bytes : List Byte} (hr : s.rxRoom bytes.length) :
    Memory.wf (s.receive bytes) := by
  refine ⟨h.1, h.2.1, h.2.2.1, ?_, h.2.2.2.2⟩
  simpa using hr

theorem Memory.wf_rxSteps {s t : State} {bytes : List Byte} (h : Memory.wf s) (ht : s.rxSteps bytes = .next t) :
    Memory.wf t := by
  obtain ⟨hr, rfl⟩ := State.rxSteps_next ht
  exact Memory.wf_receive h hr

theorem Memory.wf_txStep {s t : State} (h : Memory.wf s) (ht : s.txStep = .next t) : Memory.wf t := by
  obtain ⟨b, rest, hq, rfl⟩ := State.txStep_next ht
  refine ⟨h.1, h.2.1, h.2.2.1, h.2.2.2.1, ?_⟩
  have := h.2.2.2.2
  rw [hq] at this
  simp only [List.length_cons] at this
  exact Nat.le_of_succ_le this

theorem Memory.wf_transmit {s : State} (h : Memory.wf s) {bytes : List Byte} (hr : s.txRoom bytes.length) :
    Memory.wf (s.transmit bytes) := by
  refine ⟨h.1, h.2.1, h.2.2.1, h.2.2.2.1, ?_⟩
  simpa using hr

/-- OPTR moves on past the byte POP reads, and stays within OBUF (46_host_ops.md R307). -/
theorem Memory.wf_pop {s : State} (h : Memory.wf s) {d : Byte} (hp : s.popByte = some d) :
    Memory.wf { s with optr := s.optr + 1#16 } := by
  have hlt : s.optr.toNat < s.obuf.length := (List.getElem?_eq_some_iff.mp hp).1
  refine ⟨h.1, h.2.1, ?_, h.2.2.2⟩
  simp only [BitVec.toNat_add, BitVec.toNat_ofNat]
  omega

theorem Memory.wf_resetBlock (s : State) : Memory.wf s.resetBlock := by simp [Memory.wf]

theorem Memory.wf_hardwareReset (s : State) : Memory.wf s.hardwareReset := by simp [Memory.wf]

theorem Memory.wf_dropEvent {s : State} (h : Memory.wf s) : Memory.wf s.dropEvent := h

theorem Memory.wf_undecoded {s t : State} {e : Encoded} (h : Memory.wf s) (ht : s.undecoded e = .next t) :
    Memory.wf t := by
  obtain ⟨_, _, rfl⟩ | ⟨_, _, hr, rfl⟩ | ⟨_, _, rfl⟩ := State.undecoded_next ht
  · exact h
  · exact Memory.wf_receive h hr
  · exact Memory.wf_load h _

/-- What DECODE leaves in RXBUF is not longer than what was there, and what it delivers is shorter
(41_framer_decode.md R163). -/
theorem parseFrame_lengths (c : Cfg) (B : List Byte) :
    match parseFrame c B with
    | .needMore => True
    | .badStart left | .badLength left | .badTrailer left => left.length ≤ B.length
    | .frame _ _ p left => left.length ≤ B.length ∧ p.length ≤ c.maxFrameLen := by
  obtain ⟨-, h⟩ | ⟨-, -, h⟩ | ⟨_, -, -, h⟩ | ⟨a, lo, hi, tail, len, rfl, -, hh⟩ := parseFrame_cases c B
  · rw [h]; trivial
  · rw [h]; exact resyncScan_length_le c B
  · rw [h]; trivial
  obtain ⟨-, h⟩ | ⟨-, -, -, h⟩ | ⟨k, body, rfl, -, hM, h'⟩ := hh
  · rw [h]
    have := resyncScan_length_le c (a :: lo :: hi :: tail)
    simp only [List.length_cons] at this ⊢
    omega
  · rw [h]; trivial
  obtain ⟨-, h⟩ | ⟨-, -, h⟩ | ⟨p, trailer, left, rfl, -, hl, ⟨-, h⟩ | ⟨-, h⟩⟩ := h'
  · rw [h]
    have := resyncScan_length_le c (a :: lo :: hi :: k :: body)
    simp only [List.length_cons] at this ⊢
    omega
  · rw [h]; trivial
  · rw [h]
    simp only [List.length_cons, List.length_append]
    omega
  · rw [h]
    have := resyncScan_length_le c left
    simp only [List.length_cons, List.length_append]
    omega

/-! ## Reading after writing -/

/-- A byte pushed is read back at the index that was ILEN (46_host_ops.md R305). -/
theorem State.memRead_pushByte_self (s : State) (b : Byte) (h : s.ibuf.length ≠ s.cfg.maxFrameLen) :
    (s.pushByte b).memRead .ibuf s.ibuf.length = some b := by
  obtain ⟨h', -⟩ | ⟨-, e⟩ := s.pushByte_cases b
  · exact absurd h' h
  · rw [e]
    simp [State.memRead, State.buffer]

/-- PUSH leaves every byte that was there, in every space (46_host_ops.md R305). -/
theorem State.memRead_pushByte_of_some {s : State} {space : Space} {i : Nat} {x : Byte} (b : Byte)
    (h : s.memRead space i = some x) : (s.pushByte b).memRead space i = some x := by
  obtain ⟨-, e⟩ | ⟨-, e⟩ := s.pushByte_cases b <;> rw [e]
  · cases space <;> exact h
  · cases space
    · have hi : i < s.ibuf.length := (List.getElem?_eq_some_iff.mp h).1
      simp only [State.memRead, State.buffer, State.ok_ibuf, State.setIbuf_ibuf, List.getElem?_append_left hi]
      exact h
    all_goals exact h

/-- Bytes that arrive stand behind those that were there, which stay (41_framer_decode.md R160). -/
theorem State.memRead_receive (s : State) (bytes : List Byte) (i : Nat) :
    (s.receive bytes).memRead .rxbuf i =
      if i < s.rxbuf.length then s.memRead .rxbuf i else bytes[i - s.rxbuf.length]? := by
  simp only [State.memRead, State.buffer, State.receive_rxbuf]
  exact List.getElem?_append

/-- A write to OBUF is what is read from it, and no other buffer changes (00_scope.md R11). -/
theorem State.memRead_setObuf (s : State) (bytes : List Byte) (space : Space) (i : Nat) :
    (s.setObuf bytes).memRead space i = if space = .obuf then bytes[i]? else s.memRead space i := by
  cases space <;> rfl

end Sys2Proof.Machine
end

