-- ==== Sys2Proof/Laws/PerInstr.lean ====
section
/-! SUPPORT. One statement about every instruction as syntax, with one lemma for each constructor: what the instruction
looks like at the port it is offered to. -/

namespace Sys2Proof.Laws

open Machine

/-- What stands at the port: a command is one command word, whatever its operand (30_encoding.md R100, R120); a
well-formed frame starts with `SOM` and has a legal length (R101, R107); a well-formed secure payload region has room
for SEQ and TAG and fits the buffers (R112). -/
def WordAtPort.Statement (i : Instr) : Prop :=
  ∀ c : Cfg, i.wf c = true →
    match encodeItem c i with
    | .command w => ∃ op imm : Byte, w = op ++ imm ∧ op.toNat < 0x4F
    | .line bytes => bytes.head? = some c.som ∧ 6 ≤ bytes.length ∧ bytes.length ≤ c.maxFrameLen
    | .region bytes => secOvh c ≤ bytes.length ∧ bytes.length ≤ c.bufSize

theorem WordAtPort.nop : WordAtPort.Statement .nop := fun _ _ => ⟨_, _, rfl, by decide⟩

theorem WordAtPort.reset : WordAtPort.Statement .reset := fun _ _ => ⟨_, _, rfl, by decide⟩

theorem WordAtPort.rdflags : WordAtPort.Statement .rdflags := fun _ _ => ⟨_, _, rfl, by decide⟩

theorem WordAtPort.clrflags : WordAtPort.Statement .clrflags := fun _ _ => ⟨_, _, rfl, by decide⟩

theorem WordAtPort.push (imm : Byte) : WordAtPort.Statement (.push imm) := fun _ _ => ⟨_, _, rfl, by decide⟩

theorem WordAtPort.iclr : WordAtPort.Statement .iclr := fun _ _ => ⟨_, _, rfl, by decide⟩

theorem WordAtPort.pop : WordAtPort.Statement .pop := fun _ _ => ⟨_, _, rfl, by decide⟩

theorem WordAtPort.olenl : WordAtPort.Statement .olenl := fun _ _ => ⟨_, _, rfl, by decide⟩

theorem WordAtPort.olenh : WordAtPort.Statement .olenh := fun _ _ => ⟨_, _, rfl, by decide⟩

theorem WordAtPort.xfer : WordAtPort.Statement .xfer := fun _ _ => ⟨_, _, rfl, by decide⟩

theorem WordAtPort.orew : WordAtPort.Statement .orew := fun _ _ => ⟨_, _, rfl, by decide⟩

theorem WordAtPort.setaddr (imm : Byte) : WordAtPort.Statement (.setaddr imm) := fun _ _ => ⟨_, _, rfl, by decide⟩

theorem WordAtPort.setctrl (imm : Byte) : WordAtPort.Statement (.setctrl imm) := fun _ _ => ⟨_, _, rfl, by decide⟩

theorem WordAtPort.encode : WordAtPort.Statement .encode := fun _ _ => ⟨_, _, rfl, by decide⟩

theorem WordAtPort.decode : WordAtPort.Statement .decode := fun _ _ => ⟨_, _, rfl, by decide⟩

theorem WordAtPort.getaddr : WordAtPort.Statement .getaddr := fun _ _ => ⟨_, _, rfl, by decide⟩

theorem WordAtPort.getctrl : WordAtPort.Statement .getctrl := fun _ _ => ⟨_, _, rfl, by decide⟩

theorem WordAtPort.rxflush : WordAtPort.Statement .rxflush := fun _ _ => ⟨_, _, rfl, by decide⟩

theorem WordAtPort.fstat : WordAtPort.Statement .fstat := fun _ _ => ⟨_, _, rfl, by decide⟩

theorem WordAtPort.cksinit : WordAtPort.Statement .cksinit := fun _ _ => ⟨_, _, rfl, by decide⟩

theorem WordAtPort.cksupd (imm : Byte) : WordAtPort.Statement (.cksupd imm) := fun _ _ => ⟨_, _, rfl, by decide⟩

theorem WordAtPort.cksget : WordAtPort.Statement .cksget := fun _ _ => ⟨_, _, rfl, by decide⟩

theorem WordAtPort.crcinit : WordAtPort.Statement .crcinit := fun _ _ => ⟨_, _, rfl, by decide⟩

theorem WordAtPort.crcupd (imm : Byte) : WordAtPort.Statement (.crcupd imm) := fun _ _ => ⟨_, _, rfl, by decide⟩

theorem WordAtPort.crcgetl : WordAtPort.Statement .crcgetl := fun _ _ => ⟨_, _, rfl, by decide⟩

theorem WordAtPort.crcgeth : WordAtPort.Statement .crcgeth := fun _ _ => ⟨_, _, rfl, by decide⟩

theorem WordAtPort.cksbuf : WordAtPort.Statement .cksbuf := fun _ _ => ⟨_, _, rfl, by decide⟩

theorem WordAtPort.crcbuf : WordAtPort.Statement .crcbuf := fun _ _ => ⟨_, _, rfl, by decide⟩

theorem WordAtPort.scsel (imm : Byte) : WordAtPort.Statement (.scsel imm) := fun _ _ => ⟨_, _, rfl, by decide⟩

theorem WordAtPort.scstat : WordAtPort.Statement .scstat := fun _ _ => ⟨_, _, rfl, by decide⟩

theorem WordAtPort.sckey : WordAtPort.Statement .sckey := fun _ _ => ⟨_, _, rfl, by decide⟩

theorem WordAtPort.scclr : WordAtPort.Statement .scclr := fun _ _ => ⟨_, _, rfl, by decide⟩

theorem WordAtPort.scinit : WordAtPort.Statement .scinit := fun _ _ => ⟨_, _, rfl, by decide⟩

theorem WordAtPort.scchal : WordAtPort.Statement .scchal := fun _ _ => ⟨_, _, rfl, by decide⟩

theorem WordAtPort.scvrfy : WordAtPort.Statement .scvrfy := fun _ _ => ⟨_, _, rfl, by decide⟩

theorem WordAtPort.scrvfy : WordAtPort.Statement .scrvfy := fun _ _ => ⟨_, _, rfl, by decide⟩

theorem WordAtPort.scfin (imm : Byte) : WordAtPort.Statement (.scfin imm) := fun _ _ => ⟨_, _, rfl, by decide⟩

theorem WordAtPort.sctmo : WordAtPort.Statement .sctmo := fun _ _ => ⟨_, _, rfl, by decide⟩

theorem WordAtPort.scretry : WordAtPort.Statement .scretry := fun _ _ => ⟨_, _, rfl, by decide⟩

theorem WordAtPort.scwrap : WordAtPort.Statement .scwrap := fun _ _ => ⟨_, _, rfl, by decide⟩

theorem WordAtPort.scunwrap : WordAtPort.Statement .scunwrap := fun _ _ => ⟨_, _, rfl, by decide⟩

theorem WordAtPort.scadmit : WordAtPort.Statement .scadmit := fun _ _ => ⟨_, _, rfl, by decide⟩

theorem WordAtPort.scfails : WordAtPort.Statement .scfails := fun _ _ => ⟨_, _, rfl, by decide⟩

theorem WordAtPort.frameCk (addr ctrl : Byte) (payload : List Byte) :
    WordAtPort.Statement (.frameCk addr ctrl payload) := by
  intro c h
  simp only [Instr.wf, wfFrameCk, Bool.and_eq_true, decide_eq_true_eq] at h
  simp only [encodeItem, frameCkBytes, frameHeader, List.length_append, List.length_cons, List.length_nil, le16_length,
    List.cons_append, List.head?_cons]
  exact ⟨trivial, by omega, by omega⟩

theorem WordAtPort.frameCrc (addr ctrl : Byte) (payload : List Byte) :
    WordAtPort.Statement (.frameCrc addr ctrl payload) := by
  intro c h
  simp only [Instr.wf, wfFrameCrc, Bool.and_eq_true, decide_eq_true_eq] at h
  simp only [encodeItem, frameCrcBytes, frameHeader, List.length_append, List.length_cons, List.length_nil, le16_length,
    List.cons_append, List.head?_cons]
  exact ⟨trivial, by omega, by omega⟩

theorem WordAtPort.spr (seq : Word32) (ct tag : List Byte) : WordAtPort.Statement (.spr seq ct tag) := by
  intro c h
  simp only [Instr.wf, wfSpr, Bool.and_eq_true, decide_eq_true_eq] at h
  simp only [encodeItem, sprBytes_length, secOvh, Cfg.seqLen] at h ⊢
  omega

end Sys2Proof.Laws
end

