-- ==== Sys2Proof/Laws/Suite.lean ====
section
/-! SUPPORT. The lengths of what the algorithms of the reference suite answer (45_cipher_suite.md R263, R271, R274,
R277). -/

namespace Sys2Proof.Machine

@[simp] theorem xorBlock_length (a b : List Byte) : (xorBlock a b).length = 16 := by simp [xorBlock]

@[simp] theorem aesLastRound_length (rk s : List Byte) : (aesLastRound rk s).length = 16 := by simp [aesLastRound]

@[simp] theorem aesRound_length (rk s : List Byte) : (aesRound rk s).length = 16 := by simp [aesRound]

theorem aesRounds_length (rcons rk s : List Byte) (h : s.length = 16) : (aesRounds rcons rk s).length = 16 := by
  induction rcons generalizing rk s with
  | nil => simpa [aesRounds] using h
  | cons rcon rest ih =>
    cases rest with
    | nil => simp [aesRounds]
    | cons r rest => exact ih _ _ (by simp)

/-- One block out of the cipher is 16 bytes, whatever goes in (45_cipher_suite.md R271). -/
@[simp] theorem aesEncrypt_length (k b : List Byte) : (aesEncrypt k b).length = 16 :=
  aesRounds_length _ _ _ (by simp)

/-- A CMAC is 16 bytes (45_cipher_suite.md R274). -/
@[simp] theorem cmac_length (k m : List Byte) : (cmac k m).length = 16 := by simp [cmac]

/-- `n` blocks of keystream (45_cipher_suite.md R277). -/
@[simp] theorem keystream_length (k : List Byte) (d : BitVec 1) (q : Word32) (n : Nat) :
    (keystream k d q n).length = 16 * n := by
  simp [keystream, List.length_flatMap]
  omega

/-- The cipher keeps the length (45_cipher_suite.md R263). -/
@[simp] theorem refCrypt_length (k : List Byte) (d : BitVec 1) (q : Word32) (t : List Byte) :
    (refCrypt k d q t).length = t.length := by
  simp [refCrypt]
  omega

/-- The cipher is its own inverse (45_cipher_suite.md R262). -/
theorem refCrypt_refCrypt (k : List Byte) (d : BitVec 1) (q : Word32) (t : List Byte) :
    refCrypt k d q (refCrypt k d q t) = t := by
  have h : (refCrypt k d q t).length = t.length := refCrypt_length k d q t
  simp only [refCrypt] at h ⊢
  rw [h]
  exact xorBytes_xorBytes_cancel _ _ (by simp; omega)

end Sys2Proof.Machine
end

