-- ==== Sys2Proof/Laws/SuiteTable.lean ====
section
/-! SUPPORT. A suite written out as a table can be any suite: `exchange` is an involution that keeps the length, and
`suiteTable_complete` says that every suite with the laws of 45_cipher_suite.md R261 to R264 is a table's on the
arguments of R260. -/

namespace Sys2Proof.Machine

/-- An exchange done twice changes nothing. -/
@[simp] theorem exchange_exchange (x : List Byte) (r : CipherRow) : exchange (exchange x r) r = x := by
  unfold exchange
  split_ifs <;> simp_all

/-- An exchange of two texts of one length keeps the length. -/
theorem exchange_length {x : List Byte} {r : CipherRow} (ha : r.a.length = x.length) (hb : r.b.length = x.length) :
    (exchange x r).length = x.length := by
  unfold exchange
  split_ifs <;> simp_all

/-- Undoing the exchanges, the last one first, gives the text back. -/
theorem foldl_exchange_reverse (rows : List CipherRow) (x : List Byte) :
    rows.reverse.foldl exchange (rows.foldl exchange x) = x := by
  induction rows generalizing x with
  | nil => rfl
  | cons r rows ih => simp [ih]

/-- The selected exchanges keep the length of a text of the length they were selected for. -/
theorem foldl_cipherRows_length (rows : List CipherRow) (k : List Byte) (d : BitVec 1) (q : Word32) (x : List Byte)
    (l : List CipherRow) (hl : ∀ r ∈ l, r ∈ cipherRows rows k d q x.length) : (l.foldl exchange x).length = x.length := by
  induction l generalizing x with
  | nil => rfl
  | cons r l ih =>
    have hr := hl r (by simp)
    simp only [cipherRows, List.mem_filter, decide_eq_true_eq] at hr
    have h := exchange_length hr.2.2.2.2.1 hr.2.2.2.2.2
    rw [List.foldl_cons, ih _ (fun s hs => by rw [h]; exact hl s (by simp [hs])), h]

@[simp] theorem fitTo_length (n : Nat) (v : List Byte) : (fitTo n v).length = n := by simp [fitTo]

theorem fitTo_of_length {n : Nat} {v : List Byte} (h : v.length = n) : fitTo n v = v := by
  subst h; simp [fitTo]

@[simp] theorem nonceValue_length (rows : List NonceRow) (n : Nat) (k a b : List Byte) :
    (nonceValue rows n k a b).length = n := by unfold nonceValue; split <;> simp

@[simp] theorem macValue_length (rows : List MacRow) (n : Nat) (k : List Byte) (a x : Byte) (q : Word32)
    (t : List Byte) : (macValue rows n k a x q t).length = n := by unfold macValue; split <;> simp

/-! ## Every lawful suite is a table's -/

/-- The byte sequences of at most `n` bytes are finitely many. -/
theorem exists_list_of_length_le (n : Nat) : ∃ l : List (List Byte), ∀ x : List Byte, x.length ≤ n → x ∈ l := by
  obtain ⟨s, hs⟩ := (List.finite_length_le Byte n).exists_finset
  exact ⟨s.toList, fun x hx => by simpa [hs] using hx⟩

theorem exists_list_of_byte : ∃ l : List Byte, ∀ x, x ∈ l := ⟨Finset.univ.toList, by simp⟩

theorem exists_list_of_word32 : ∃ l : List Word32, ∀ x, x ∈ l := ⟨Finset.univ.toList, by simp⟩

/-- Rows for any function of a secret and two nonces. -/
theorem exists_nonceRows (f : List Byte → List Byte → List Byte → List Byte) (n m : Nat)
    (hf : ∀ k a b, (f k a b).length = n) :
    ∃ rows, ∀ k a b, k.length ≤ m → a.length ≤ m → b.length ≤ m → nonceValue rows n k a b = f k a b := by
  obtain ⟨l, hl⟩ := exists_list_of_length_le m
  let rows := l.flatMap fun k => l.flatMap fun a => l.map fun b => (⟨k, a, b, f k a b⟩ : NonceRow)
  refine ⟨rows, fun k a b hk ha hb => ?_⟩
  have hv : ∀ r ∈ rows, r.value = f r.psk r.na r.nb := by
    intro r hr
    simp only [rows, List.mem_flatMap, List.mem_map] at hr
    obtain ⟨_, _, _, _, _, _, rfl⟩ := hr
    rfl
  have hm : (⟨k, a, b, f k a b⟩ : NonceRow) ∈ rows := by
    simp only [rows, List.mem_flatMap, List.mem_map]
    exact ⟨k, hl k hk, a, hl a ha, b, hl b hb, rfl⟩
  unfold nonceValue
  split
  · rename_i r hr
    have h1 := List.find?_some hr
    simp only [decide_eq_true_eq] at h1
    rw [hv r (List.mem_of_find?_eq_some hr), h1.1, h1.2.1, h1.2.2, fitTo_of_length (hf ..)]
  · rename_i hn
    simpa using List.find?_eq_none.mp hn _ hm

/-- Rows for any function of the arguments of `MAC`. -/
theorem exists_macRows (f : List Byte → Byte → Byte → Word32 → List Byte → List Byte) (n m : Nat)
    (hf : ∀ k a x q t, (f k a x q t).length = n) :
    ∃ rows, ∀ k a x q t, k.length ≤ m → t.length ≤ m → macValue rows n k a x q t = f k a x q t := by
  obtain ⟨l, hl⟩ := exists_list_of_length_le m
  obtain ⟨bs, hbs⟩ := exists_list_of_byte
  obtain ⟨ws, hws⟩ := exists_list_of_word32
  let rows := l.flatMap fun k => bs.flatMap fun a => bs.flatMap fun x => ws.flatMap fun q => l.map fun t =>
    (⟨k, a, x, q, t, f k a x q t⟩ : MacRow)
  refine ⟨rows, fun k a x q t hk ht => ?_⟩
  have hv : ∀ r ∈ rows, r.value = f r.kmac r.addr r.ctrl r.seq r.pt := by
    intro r hr
    simp only [rows, List.mem_flatMap, List.mem_map] at hr
    obtain ⟨_, _, _, _, _, _, _, _, _, _, rfl⟩ := hr
    rfl
  have hm : (⟨k, a, x, q, t, f k a x q t⟩ : MacRow) ∈ rows := by
    simp only [rows, List.mem_flatMap, List.mem_map]
    exact ⟨k, hl k hk, a, hbs a, x, hbs x, q, hws q, t, hl t ht, rfl⟩
  unfold macValue
  split
  · rename_i r hr
    have h1 := List.find?_some hr
    simp only [decide_eq_true_eq] at h1
    rw [hv r (List.mem_of_find?_eq_some hr), h1.1, h1.2.1, h1.2.2.1, h1.2.2.2.1, h1.2.2.2.2, fitTo_of_length (hf ..)]
  · rename_i hn
    simpa using List.find?_eq_none.mp hn _ hm

/-- A permutation of the texts of `m` bytes is a sequence of exchanges. -/
theorem exists_exchanges (k : List Byte) (d : BitVec 1) (q : Word32) (m : Nat)
    (f : Equiv.Perm { l : List Byte // l.length = m }) :
    ∃ rows : List CipherRow,
      (∀ r ∈ rows, r.kenc = k ∧ r.dir = d ∧ r.seq = q ∧ r.a.length = m ∧ r.b.length = m) ∧
      ∀ x, rows.foldl exchange x.val = (f x).val := by
  have : Finite { l : List Byte // l.length = m } := (List.finite_length_eq Byte m)
  induction f using Equiv.Perm.swap_induction_on with
  | one => exact ⟨[], by simp, fun _ => rfl⟩
  | swap_mul f x y _ ih =>
    obtain ⟨rows, h1, h2⟩ := ih
    refine ⟨rows ++ [⟨k, d, q, x.val, y.val⟩], ?_, fun z => ?_⟩
    · intro r hr
      rcases List.mem_append.mp hr with hr | hr
      · exact h1 r hr
      · rw [List.mem_singleton.mp hr]; exact ⟨rfl, rfl, rfl, x.property, y.property⟩
    · simp only [List.foldl_append, h2, List.foldl_cons, List.foldl_nil, exchange, Equiv.Perm.mul_apply,
        Equiv.swap_apply_def, Subtype.val_inj]
      split_ifs <;> rfl

/-- The rows of one key, picked out of the rows of all of them. -/
theorem filter_flatMap_key {K : Type} [DecidableEq K] {R : K → List CipherRow} {p : K → CipherRow → Bool}
    (hp : ∀ k, ∀ r ∈ R k, ∀ k', p k' r = decide (k' = k)) {ks : List K} (hn : ks.Nodup) {k : K} (hk : k ∈ ks) :
    (ks.flatMap R).filter (p k) = R k := by
  induction ks with
  | nil => cases hk
  | cons k' ks ih =>
    rw [List.nodup_cons] at hn
    rw [List.flatMap_cons, List.filter_append]
    by_cases h : k = k'
    · subst h
      rw [List.filter_eq_self.mpr fun r hr => by simp [hp k r hr],
        List.filter_eq_nil_iff.mpr, List.append_nil]
      intro r hr
      obtain ⟨k'', hm, hr⟩ := List.mem_flatMap.mp hr
      rw [hp k'' r hr]
      simpa using fun e : k = k'' => hn.1 (e ▸ hm)
    · rw [List.filter_eq_nil_iff.mpr fun r hr => by simp [hp k' r hr, h], List.nil_append]
      exact ih hn.2 ((List.mem_cons.mp hk).resolve_left h)

/-- Rows for a family of permutations, one for each key, direction, counter and text length. -/
theorem exists_cipherRows (n : Nat)
    (f : List Byte → BitVec 1 → Word32 → (m : Nat) → Equiv.Perm { l : List Byte // l.length = m }) :
    ∃ rows, ∀ k d q m, k.length ≤ n → m ≤ n → ∀ x, (cipherRows rows k d q m).foldl exchange x.val = (f k d q m x).val := by
  choose R h1 h2 using fun k d q m => exists_exchanges k d q m (f k d q m)
  obtain ⟨s, hs⟩ := (List.finite_length_le Byte n).exists_finset
  let ks := (s ×ˢ (Finset.univ : Finset (BitVec 1)) ×ˢ (Finset.univ : Finset Word32) ×ˢ Finset.range (n + 1)).toList
  refine ⟨ks.flatMap fun κ => R κ.1 κ.2.1 κ.2.2.1 κ.2.2.2, fun k d q m hk hm x => ?_⟩
  rw [← h2]
  congr 1
  refine filter_flatMap_key (R := fun κ : List Byte × BitVec 1 × Word32 × Nat => R κ.1 κ.2.1 κ.2.2.1 κ.2.2.2)
    (p := fun κ r => decide (r.kenc = κ.1 ∧ r.dir = κ.2.1 ∧ r.seq = κ.2.2.1 ∧ r.a.length = κ.2.2.2 ∧
      r.b.length = κ.2.2.2)) ?_ (Finset.nodup_toList _) (k := (k, d, q, m)) ?_
  · rintro ⟨k, d, q, m⟩ r hr ⟨k', d', q', m'⟩
    obtain ⟨rfl, rfl, rfl, ha, hb⟩ := h1 k d q m r hr
    simp only [decide_eq_decide, Prod.mk.injEq, ha, hb]
    constructor
    · rintro ⟨rfl, rfl, rfl, rfl, -⟩; exact ⟨rfl, rfl, rfl, rfl⟩
    · rintro ⟨rfl, rfl, rfl, rfl⟩; exact ⟨rfl, rfl, rfl, rfl, rfl⟩
  · simp [hs, hk, Nat.lt_succ_of_le hm]

/-- Every suite that satisfies 45_cipher_suite.md R261 to R263 for the sizes of a configuration is the suite of a table,
on the arguments that R260 admits: so `SUITE` may be any of them (00_scope.md R8). -/
theorem suiteTable_complete (c : Cfg) (S : Suite) (h : S.Lawful c) :
    ∃ t : SuiteTable,
      (∀ k a b, k.length = c.keyLen → a.length = c.nonceLen → b.length = c.nonceLen →
        (suiteTable c t).resp k a b = S.resp k a b ∧ (suiteTable c t).initv k a b = S.initv k a b ∧
        (suiteTable c t).kdfEnc k a b = S.kdfEnc k a b ∧ (suiteTable c t).kdfMac k a b = S.kdfMac k a b) ∧
      (∀ k d q x, k.length = c.keyLen → x.length ≤ c.bufSize →
        (suiteTable c t).enc k d q x = S.enc k d q x ∧ (suiteTable c t).dec k d q x = S.dec k d q x) ∧
      (∀ k a b q x, k.length = c.keyLen → x.length ≤ c.bufSize →
        (suiteTable c t).mac k a b q x = S.mac k a b q x) := by
  let n := c.keyLen + c.nonceLen + c.bufSize
  obtain ⟨resp, hr⟩ := exists_nonceRows S.resp _ n h.resp_length
  obtain ⟨initv, hi⟩ := exists_nonceRows S.initv _ n h.initv_length
  obtain ⟨kdfEnc, he⟩ := exists_nonceRows S.kdfEnc _ n h.kdfEnc_length
  obtain ⟨kdfMac, hm⟩ := exists_nonceRows S.kdfMac _ n h.kdfMac_length
  obtain ⟨mac, hmac⟩ := exists_macRows S.mac _ n h.mac_length
  let f (k : List Byte) (d : BitVec 1) (q : Word32) (m : Nat) (x : { l : List Byte // l.length = m }) :
      { l : List Byte // l.length = m } := ⟨S.enc k d q x.val, (h.enc_length ..).trans x.property⟩
  have hinj : ∀ k d q m, Function.Injective (f k d q m) := fun k d q m x y e =>
    Subtype.ext (by rw [← h.dec_enc k d q x.val, ← h.dec_enc k d q y.val]; exact congrArg (S.dec k d q) (Subtype.ext_iff.mp e))
  have hfin : ∀ m, Finite { l : List Byte // l.length = m } := fun m => List.finite_length_eq Byte m
  let g k d q m := Equiv.ofBijective (f k d q m) (Finite.injective_iff_bijective.mp (hinj k d q m))
  obtain ⟨cipher, hc⟩ := exists_cipherRows n g
  have hb : c.bufSize ≤ n := Nat.le_add_left ..
  refine ⟨⟨resp, initv, kdfEnc, kdfMac, cipher, mac⟩, fun k a b hk ha hb => ?_, fun k d q x hk hx => ?_,
    fun k a b q x hk hx => hmac k a b q x (by omega) (by omega)⟩
  · have hk : k.length ≤ n := by omega
    have ha : a.length ≤ n := by omega
    have hb : b.length ≤ n := by omega
    exact ⟨hr k a b hk ha hb, hi k a b hk ha hb, he k a b hk ha hb, hm k a b hk ha hb⟩
  · refine ⟨hc k d q x.length (by omega) (by omega) ⟨x, rfl⟩, ?_⟩
    let y := (g k d q x.length).symm ⟨x, rfl⟩
    have hy : S.enc k d q y.val = x := Subtype.ext_iff.mp ((g k d q x.length).apply_symm_apply ⟨x, rfl⟩)
    have h1 := hc k d q x.length (by omega) (by omega) y
    have h2 : (cipherRows cipher k d q x.length).foldl exchange y.val = x := h1.trans hy
    calc (cipherRows cipher k d q x.length).reverse.foldl exchange x
        = (cipherRows cipher k d q x.length).reverse.foldl exchange
            ((cipherRows cipher k d q x.length).foldl exchange y.val) := by rw [h2]
      _ = y.val := foldl_exchange_reverse _ _
      _ = S.dec k d q (S.enc k d q y.val) := (h.dec_enc ..).symm
      _ = S.dec k d q x := congrArg _ hy

end Sys2Proof.Machine
end

