-- ==== Sys2Proof/Tests/Slice0.lean ====
section
/-! SUPPORT. The model's own tests. The expected results are the vectors of spec/95_test_vectors.md (named E, D, G, O, H,
T there), the published vectors of 45_cipher_suite.md R279 and R280, or hand calculation from the rule named. Last come
the witnesses: for each statement with hypotheses, states and operands that meet them. -/

namespace Sys2Proof.Tests

open Machine

/-! ## Helpers -/

/-- Does the instruction answer a next state of which `f` holds? -/
def answers (i : Instr) (s : State) (f : State → Bool) : Bool :=
  match exec i s with
  | .next t => f t
  | _ => false

/-- Does one step answer a next state of which `f` holds? -/
def steps (s : State) (f : State → Bool) : Bool :=
  match step s with
  | .next t => f t
  | _ => false

/-- Is the response word `r`? -/
def resp (r : Word16) (t : State) : Bool := t.env.resp == some r

/-- A small configuration with the trivial suite (45_cipher_suite.md R266). -/
def tinyCfg : Cfg where
  maxFrameLen := 11
  rxbufSize := 12
  txfifoSize := 12
  nCtx := 2
  keyLen := 2
  nonceLen := 2
  verifLen := 2
  tagLen := 2
  scFailLimit := 2
  suite := .null

/-- The reset state of the small configuration, with `c` as context 0. -/
def tinyWith (c : Context) : State := { State.reset with cfg := tinyCfg, sc := [c, Context.reset tinyCfg] }

/-- The reset state of the small configuration. -/
def tiny : State := tinyWith (Context.reset tinyCfg)

/-- An Inactive context with a secret. -/
def keyed : Context := { Context.reset tinyCfg with psk := [1#8, 2#8], pskValid := true }

/-- A Negotiating context that waits in the phase of an initiator or a responder. -/
def waiting (r : Role) (p : Phase) : Context :=
  { keyed with state := .negotiating, role := r, phase := p, na := [3#8, 4#8], nb := [5#8, 6#8] }

/-- An Active context. -/
def active : Context := { keyed with state := .active, seqTx := 4#32, seqRx := 4#32 }

/-- A Failed context. -/
def failed : Context := { keyed with state := .failed, fails := 2#8 }

/-! ## Well-formedness refuses what it should -/

/-- 30_encoding.md R102: the CRC bit is set in a FRAME.CK row. -/
theorem test_wf_refuses_frameCk_with_crc_bit : (Instr.frameCk 1#8 0x04#8 []).wf .default = false := by decide

/-- 30_encoding.md R107: 6 + 6 bytes are more than MAX_FRAME_LEN = 11; 5 payload bytes are not. -/
theorem test_wf_refuses_long_frameCk :
    (Instr.frameCk 1#8 0#8 (zeroBytes 6)).wf tinyCfg = false ∧ (Instr.frameCk 1#8 0#8 (zeroBytes 5)).wf tinyCfg = true := by
  decide

/-- 30_encoding.md R102: the CRC bit is clear in a FRAME.CRC row. -/
theorem test_wf_refuses_frameCrc_without_crc_bit : (Instr.frameCrc 1#8 0x0B#8 []).wf .default = false := by decide

/-- 30_encoding.md R107: 7 + 5 bytes are more than MAX_FRAME_LEN = 11; 4 payload bytes are not. -/
theorem test_wf_refuses_long_frameCrc :
    (Instr.frameCrc 1#8 4#8 (zeroBytes 5)).wf tinyCfg = false ∧ (Instr.frameCrc 1#8 4#8 (zeroBytes 4)).wf tinyCfg = true := by
  decide

/-- 30_encoding.md R112: TAG is TAG_LEN bytes. -/
theorem test_wf_refuses_spr_tag : (Instr.spr 1#32 [] [1#8]).wf tinyCfg = false := by decide

/-- 30_encoding.md R112: 4 + 6 + 2 bytes are more than BUF_SIZE = 11; 4 + 5 + 2 are not. -/
theorem test_wf_refuses_long_spr :
    (Instr.spr 1#32 (zeroBytes 6) [1#8, 2#8]).wf tinyCfg = false ∧
    (Instr.spr 1#32 (zeroBytes 5) [1#8, 2#8]).wf tinyCfg = true := by
  decide

/-! ## Decoding, with words written out from 30_encoding.md R100 and R121 -/

theorem test_decode_system_and_buffer :
    decodeCommand 0x0000#16 = .ok .nop ∧ decodeCommand 0x0100#16 = .ok .reset ∧
    decodeCommand 0x0300#16 = .ok .rdflags ∧ decodeCommand 0x0400#16 = .ok .clrflags ∧
    decodeCommand 0x10A5#16 = .ok (.push 0xA5#8) ∧ decodeCommand 0x1100#16 = .ok .iclr ∧
    decodeCommand 0x1200#16 = .ok .pop ∧ decodeCommand 0x1300#16 = .ok .olenl ∧
    decodeCommand 0x1400#16 = .ok .olenh ∧ decodeCommand 0x1500#16 = .ok .xfer ∧
    decodeCommand 0x1600#16 = .ok .orew := by decide

theorem test_decode_framer :
    decodeCommand 0x2081#16 = .ok (.setaddr 0x81#8) ∧ decodeCommand 0x210D#16 = .ok (.setctrl 0x0D#8) ∧
    decodeCommand 0x2200#16 = .ok .encode ∧ decodeCommand 0x2300#16 = .ok .decode ∧
    decodeCommand 0x2400#16 = .ok .getaddr ∧ decodeCommand 0x2500#16 = .ok .getctrl ∧
    decodeCommand 0x2600#16 = .ok .rxflush ∧ decodeCommand 0x2700#16 = .ok .fstat := by decide

theorem test_decode_trailer :
    decodeCommand 0x3000#16 = .ok .cksinit ∧ decodeCommand 0x31FF#16 = .ok (.cksupd 0xFF#8) ∧
    decodeCommand 0x3200#16 = .ok .cksget ∧ decodeCommand 0x3300#16 = .ok .crcinit ∧
    decodeCommand 0x3404#16 = .ok (.crcupd 0x04#8) ∧ decodeCommand 0x3500#16 = .ok .crcgetl ∧
    decodeCommand 0x3600#16 = .ok .crcgeth ∧ decodeCommand 0x3700#16 = .ok .cksbuf ∧
    decodeCommand 0x3800#16 = .ok .crcbuf := by decide

theorem test_decode_secure_channel :
    decodeCommand 0x4001#16 = .ok (.scsel 1#8) ∧ decodeCommand 0x4100#16 = .ok .scstat ∧
    decodeCommand 0x4200#16 = .ok .sckey ∧ decodeCommand 0x4300#16 = .ok .scclr ∧
    decodeCommand 0x4400#16 = .ok .scinit ∧ decodeCommand 0x4500#16 = .ok .scchal ∧
    decodeCommand 0x4600#16 = .ok .scvrfy ∧ decodeCommand 0x4700#16 = .ok .scrvfy ∧
    decodeCommand 0x4801#16 = .ok (.scfin 1#8) ∧ decodeCommand 0x4900#16 = .ok .sctmo ∧
    decodeCommand 0x4A00#16 = .ok .scretry ∧ decodeCommand 0x4B00#16 = .ok .scwrap ∧
    decodeCommand 0x4C00#16 = .ok .scunwrap ∧ decodeCommand 0x4D00#16 = .ok .scadmit ∧
    decodeCommand 0x4E00#16 = .ok .scfails := by decide

/-- Vectors E3 and E5 as items on the line, T1 as a region. -/
theorem test_decode_wire_rows :
    decodeLine .default [0x53#8, 0x01#8, 0x08#8, 0x00#8, 0x00#8, 0x55#8, 0xAA#8, 0x00#8] =
      .ok (.frameCk 0x01#8 0x00#8 [0x55#8, 0xAA#8]) ∧
    decodeLine .default [0x53#8, 0x7F#8, 0x08#8, 0x00#8, 0x07#8, 0x60#8, 0x04#8, 0x10#8] =
      .ok (.frameCrc 0x7F#8 0x07#8 [0x60#8]) ∧
    decodeRegion .default [1#8, 0#8, 0#8, 0#8, 0x56#8, 0xB5#8, 0xA3#8, 0xB3#8, 0x96#8, 0xD8#8] =
      .ok (.spr 1#32 [0x56#8, 0xB5#8] [0xA3#8, 0xB3#8, 0x96#8, 0xD8#8]) := by decide +kernel

/-- The same three rows as table words, the first byte in bits 7:0. -/
theorem test_decode_table_words :
    decodeTableWord 16 0x10A5 = some (.push 0xA5#8) ∧
    decodeTableWord 64 0x00AA550000080153 = some (.frameCk 0x01#8 0x00#8 [0x55#8, 0xAA#8]) ∧
    decodeTableWord 64 0x1004600700087F53 = some (.frameCrc 0x7F#8 0x07#8 [0x60#8]) ∧
    decodeTableWord 80 0xD896B3A3B55600000001 = some (.spr 1#32 [0x56#8, 0xB5#8] [0xA3#8, 0xB3#8, 0x96#8, 0xD8#8]) := by
  decide +kernel

/-- Vector O2: unassigned opcodes; and a frame with a bad checksum is no FRAME row. -/
theorem test_decode_refuses :
    decodeCommand 0x0200#16 = .error (.unassignedOpcode 0x02#8) ∧
    decodeCommand 0x4F00#16 = .error (.unassignedOpcode 0x4F#8) ∧
    decodeCommand 0xFF55#16 = .error (.unassignedOpcode 0xFF#8) ∧
    decodeLine .default [0x53#8, 0x01#8, 0x08#8, 0x00#8, 0x00#8, 0x55#8, 0xAA#8, 0x01#8] = .error .notOneFrame ∧
    decodeRegion .default (zeroBytes 7) = .error .shortRegion := by decide

/-! ## Steps: host operations -/

/-- Vector O3: the step of a NOP word with a non-zero immediate, placed by `withFetchWord`. -/
theorem test_step_runs_a_word :
    steps (State.reset.withFetchWord 16 0x00FF)
      (fun t => t == { State.reset with env := { State.reset.env with resp := some 0x0000#16 } }) = true := by decide

/-- Vector O1. -/
theorem test_nop : answers .nop .reset (resp 0x0000#16) = true := by decide

/-- Vector O15: RESET clears what a host has set. -/
theorem test_reset :
    answers .reset { tinyWith active with eflags := 7#8, ibuf := [1#8], ctx := 1#8 }
      (fun t => resp 0x0000#16 t && t.eflags == 0#8 && t.ibuf == [] && t.ctx == 0#8 &&
        t.sc == [Context.reset tinyCfg, Context.reset tinyCfg]) = true := by decide

/-- Vector O14. -/
theorem test_rdflags_clrflags :
    answers .rdflags { State.reset with eflags := 7#8 } (resp 0x0007#16) = true ∧
    answers .clrflags { State.reset with eflags := 7#8 } (fun t => resp 0x0000#16 t && t.eflags == 0#8) = true := by decide

/-- Vectors O4 and O5, at the capacity 11 of the small configuration. -/
theorem test_push :
    answers (.push 0xEE#8) { tiny with ibuf := zeroBytes 10 }
      (fun t => resp 0x0000#16 t && t.ibuf == zeroBytes 10 ++ [0xEE#8] && t.eflags == 0#8) = true ∧
    answers (.push 0xEE#8) { tiny with ibuf := zeroBytes 11 }
      (fun t => resp 0x3100#16 t && t.ibuf == zeroBytes 11 && t.eflags == 0x10#8) = true := by decide

theorem test_iclr : answers .iclr { tiny with ibuf := [1#8] } (fun t => resp 0x0000#16 t && t.ibuf == []) = true := by decide

/-- Vectors O6 and O7. -/
theorem test_pop :
    answers .pop { tiny with obuf := [0x55#8, 0xAA#8], optr := 1#16 } (fun t => resp 0x00AA#16 t && t.optr == 2#16) = true ∧
    answers .pop { tiny with obuf := [0x55#8, 0xAA#8], optr := 2#16 }
      (fun t => resp 0x3200#16 t && t.optr == 2#16 && t.eflags == 0x10#8) = true := by decide

/-- Vector O8: OLEN = 256. -/
theorem test_olen :
    answers .olenl { State.reset with obuf := zeroBytes 256 } (resp 0x0000#16) = true ∧
    answers .olenh { State.reset with obuf := zeroBytes 256 } (resp 0x0001#16) = true := by decide +kernel

/-- Vector O9: XFER copies, and OREW rewinds (O7). -/
theorem test_xfer_orew :
    answers .xfer { tiny with obuf := [1#8, 2#8, 3#8], optr := 1#16, ibuf := [9#8] }
      (fun t => resp 0x0003#16 t && t.ibuf == [1#8, 2#8, 3#8] && t.obuf == [1#8, 2#8, 3#8] && t.optr == 1#16) = true ∧
    answers .orew { tiny with obuf := [1#8], optr := 1#16 } (fun t => resp 0x0000#16 t && t.optr == 0#16) = true := by decide

/-- Vectors O10 and O11. -/
theorem test_header_registers :
    answers (.setaddr 0x81#8) .reset (fun t => resp 0x0081#16 t && t.txaddr == 0x81#8) = true ∧
    answers (.setctrl 0x0D#8) .reset (fun t => resp 0x000D#16 t && t.txctrl == 0x0D#8) = true ∧
    answers .getaddr { State.reset with rxaddr := 0x81#8 } (resp 0x0081#16) = true ∧
    answers .getctrl { State.reset with rxctrl := 0xF0#8 } (resp 0x00F0#16) = true := by decide

/-- Vectors O12 and O13; RXBUF full and TXFIFO with 2 of 12 bytes, which leaves too little for a largest frame. -/
theorem test_fstat_rxflush :
    answers .fstat .reset (resp 0x0005#16) = true ∧
    answers .fstat { tiny with rxbuf := zeroBytes 12, txfifo := zeroBytes 2 } (resp 0x000A#16) = true ∧
    answers .rxflush { State.reset with rxbuf := [0x53#8, 0#8, 8#8] } (fun t => resp 0x0003#16 t && t.rxbuf == []) = true := by
  decide

/-! ## Steps: trailer generator -/

/-- Section 2.3: `CKSUPD 0xFF` on 01 wraps to 00; CKSACC = E2 answers 1E; CKSBUF is vector G7. -/
theorem test_checksum :
    answers .cksinit { State.reset with cksacc := 9#8 } (fun t => resp 0x0000#16 t && t.cksacc == 0#8) = true ∧
    answers (.cksupd 0xFF#8) { State.reset with cksacc := 1#8 } (fun t => resp 0x0000#16 t && t.cksacc == 0#8) = true ∧
    answers .cksget { State.reset with cksacc := 0xE2#8 } (resp 0x001E#16) = true ∧
    answers .cksbuf { State.reset with ibuf := [0x7F#8, 0x03#8, 0x60#8] }
      (fun t => resp 0x001E#16 t && t.cksacc == 0xE2#8) = true := by decide

/-- Section 2.3: `CRCINIT; CRCUPD 0x00` leaves CC9C, then `CRCUPD 0x04` C444; CRCBUF is vector G11. -/
theorem test_crc :
    answers .crcinit { State.reset with crcacc := 9#16 } (fun t => resp 0x0000#16 t && t.crcacc == 0x1D0F#16) = true ∧
    answers (.crcupd 0x04#8) { State.reset with crcacc := 0xCC9C#16 }
      (fun t => resp 0x0000#16 t && t.crcacc == 0xC444#16) = true ∧
    answers .crcgetl { State.reset with crcacc := 0xC444#16 } (resp 0x0044#16) = true ∧
    answers .crcgeth { State.reset with crcacc := 0xC444#16 } (resp 0x00C4#16) = true ∧
    answers .crcbuf { State.reset with
        ibuf := [0x31#8, 0x32#8, 0x33#8, 0x34#8, 0x35#8, 0x36#8, 0x37#8, 0x38#8, 0x39#8] }
      (fun t => resp 0x00CC#16 t && t.crcacc == 0xE5CC#16) = true := by decide +kernel

/-! ## Steps: framer -/

/-- Vectors E4 and E8. -/
theorem test_encode :
    answers .encode { State.reset with txaddr := 0x81#8, txctrl := 0x05#8, ibuf := [0x55#8, 0xAA#8] }
      (fun t => resp 0x0009#16 t &&
        t.txfifo == [0x53#8, 0x81#8, 0x09#8, 0x00#8, 0x05#8, 0x55#8, 0xAA#8, 0x86#8, 0xAB#8]) = true ∧
    answers .encode { State.reset with txctrl := 0xF0#8, ibuf := [0x53#8, 0x53#8], txfifo := [7#8] }
      (fun t => resp 0x0008#16 t &&
        t.txfifo == [7#8, 0x53#8, 0x00#8, 0x08#8, 0x00#8, 0xF0#8, 0x53#8, 0x53#8, 0x6A#8]) = true := by decide +kernel

/-- Vectors E12 and E14, at the sizes of the small configuration. -/
theorem test_encode_refuses :
    answers .encode { tiny with ibuf := zeroBytes 6 } (fun t => resp 0x3100#16 t && t.txfifo == [] && t.eflags == 0x10#8) = true ∧
    answers .encode { tiny with txfifo := zeroBytes 7 } (fun t => resp 0x3300#16 t && t.txfifo == zeroBytes 7) = true := by
  decide

/-- Vectors D16 and D5. -/
theorem test_decode :
    answers .decode { State.reset with rxbuf := [0x53#8, 0x00#8, 0x08#8, 0x00#8, 0xF0#8, 0x53#8, 0x53#8, 0x6A#8] }
      (fun t => resp 0x0002#16 t && t.rxctrl == 0xF0#8 && t.obuf == [0x53#8, 0x53#8] && t.rxbuf == []) = true ∧
    answers .decode { State.reset with
        rxbuf := [0x53#8, 0x01#8, 0x08#8, 0x00#8, 0x00#8, 0x55#8, 0xAA#8, 0x01#8, 0x53#8, 0x81#8, 0x09#8] }
      (fun t => resp 0x1200#16 t && t.rxbuf == [0x53#8, 0x81#8, 0x09#8] && t.eflags == 4#8 && t.obuf == []) = true := by
  decide +kernel

/-- Vectors D2, D4, D9, D10 and D14. -/
theorem test_decode_other_outcomes :
    answers .decode { State.reset with rxbuf := [0x53#8, 0x01#8, 0x08#8] } (fun t => resp 0x0100#16 t && t.eflags == 0#8) = true ∧
    answers .decode { State.reset with rxbuf := [0xFF#8, 0x00#8, 0x12#8, 0x53#8, 0x00#8] }
      (fun t => resp 0x1000#16 t && t.rxbuf == [0x53#8, 0x00#8] && t.eflags == 1#8) = true ∧
    answers .decode { State.reset with rxbuf := [0x53#8, 0x00#8, 0x05#8, 0x00#8] }
      (fun t => resp 0x1100#16 t && t.rxbuf == [] && t.eflags == 2#8) = true ∧
    answers .decode { State.reset with rxbuf := [0x53#8, 0x00#8, 0x06#8, 0x00#8, 0x04#8, 0x00#8] }
      (fun t => resp 0x1100#16 t && t.rxbuf == []) = true ∧
    answers .decode { State.reset with rxbuf := [0x53#8, 0x53#8, 0x00#8, 0x06#8, 0x00#8, 0x00#8, 0x00#8] }
      (fun t => resp 0x1100#16 t && t.rxbuf == [0x53#8, 0x00#8, 0x06#8, 0x00#8, 0x00#8, 0x00#8]) = true := by decide +kernel

/-- The bytes of vectors E3 and E5, as rows on the line. -/
theorem test_frame_rows :
    answers (.frameCk 0x01#8 0x00#8 [0x55#8, 0xAA#8]) .reset
      (fun t => t.rxbuf == [0x53#8, 0x01#8, 0x08#8, 0x00#8, 0x00#8, 0x55#8, 0xAA#8, 0x00#8]) = true ∧
    answers (.frameCrc 0x7F#8 0x07#8 [0x60#8]) .reset
      (fun t => t.rxbuf == [0x53#8, 0x7F#8, 0x08#8, 0x00#8, 0x07#8, 0x60#8, 0x04#8, 0x10#8]) = true := by decide +kernel

/-- The bytes of vector T1, as a row loaded into IBUF. -/
theorem test_spr_row :
    answers (.spr 1#32 [0x56#8, 0xB5#8] [0xA3#8, 0xB3#8, 0x96#8, 0xD8#8]) .reset
      (fun t => resp 0x0000#16 t &&
        t.ibuf == [1#8, 0#8, 0#8, 0#8, 0x56#8, 0xB5#8, 0xA3#8, 0xB3#8, 0x96#8, 0xD8#8]) = true := by decide

/-! ## Steps: secure channel -/

/-- K, NA and NB of section 2.5. -/
def secretK : List Byte :=
  [0x30#8, 0x31#8, 0x32#8, 0x33#8, 0x34#8, 0x35#8, 0x36#8, 0x37#8, 0x38#8, 0x39#8, 0x3A#8, 0x3B#8, 0x3C#8, 0x3D#8, 0x3E#8, 0x3F#8]

def nonceA : List Byte := [0xA0#8, 0xA1#8, 0xA2#8, 0xA3#8, 0xA4#8, 0xA5#8, 0xA6#8, 0xA7#8]

def nonceB : List Byte := [0xB0#8, 0xB1#8, 0xB2#8, 0xB3#8, 0xB4#8, 0xB5#8, 0xB6#8, 0xB7#8]

/-- RESP of vector H1. -/
def respH1 : List Byte :=
  [0xEF#8, 0x4C#8, 0x90#8, 0xE7#8, 0xF5#8, 0xB8#8, 0xBD#8, 0x01#8, 0x81#8, 0x86#8, 0xD1#8, 0x5E#8, 0x20#8, 0x64#8, 0xF5#8, 0x6D#8]

/-- INITV of vector H1. -/
def initvH1 : List Byte :=
  [0x2F#8, 0xF6#8, 0xAD#8, 0x11#8, 0xE4#8, 0x6F#8, 0xB8#8, 0x20#8, 0x23#8, 0x96#8, 0xEC#8, 0xDA#8, 0x83#8, 0x3B#8, 0x2D#8, 0xEF#8]

/-- `kenc` and `kmac` of vector H1. -/
def kencH1 : List Byte :=
  [0x08#8, 0x8A#8, 0xEC#8, 0xEA#8, 0xE4#8, 0xBF#8, 0x6F#8, 0xE6#8, 0x98#8, 0x4E#8, 0x2C#8, 0xFB#8, 0x47#8, 0x3F#8, 0xBF#8, 0x85#8]

def kmacH1 : List Byte :=
  [0xD1#8, 0xA4#8, 0x09#8, 0x82#8, 0x33#8, 0x8A#8, 0x35#8, 0x37#8, 0x7C#8, 0x24#8, 0xDD#8, 0x13#8, 0x7E#8, 0x92#8, 0x0E#8, 0x1B#8]

/-- A context of the default configuration that holds K. -/
def keyedK : Context := { Context.reset .default with psk := secretK, pskValid := true }

/-- The reset state with `c` as context 0. -/
def refWith (c : Context) : State := { State.reset with sc := [c, Context.reset .default] }

/-- Vector H9. -/
theorem test_scsel :
    answers (.scsel 1#8) .reset (fun t => resp 0x0001#16 t && t.ctx == 1#8) = true ∧
    answers (.scsel 2#8) .reset (fun t => resp 0x3400#16 t && t.ctx == 0#8 && t.eflags == 0x10#8) = true := by decide

/-- SCSTAT answers of vectors H1, H2 and H5; SCFAILS of T4. -/
theorem test_scstat_scfails :
    answers .scstat (tinyWith (waiting .initiator .initAwaitReply)) (resp 0x0029#16) = true ∧
    answers .scstat (tinyWith (waiting .responder .respAwaitVerify)) (resp 0x003D#16) = true ∧
    answers .scstat (tinyWith failed) (resp 0x0023#16) = true ∧
    answers .scfails (tinyWith failed) (resp 0x0002#16) = true := by decide

/-- Vector H7 and R212: the secret leaves IBUF. -/
theorem test_sckey :
    answers .sckey { tiny with ibuf := [1#8, 2#8] }
      (fun t => resp 0x0000#16 t && t.ibuf == [] && t.sc.head? == some keyed) = true ∧
    answers .sckey { tiny with ibuf := [1#8, 2#8, 3#8] } (fun t => resp 0x3500#16 t && t.sc == tiny.sc) = true := by decide

/-- Vector H10. -/
theorem test_scclr :
    answers .scclr (tinyWith active) (fun t => resp 0x0000#16 t && t.sc == tiny.sc) = true := by decide

/-- Vectors H1 and H6: the nonce is the first draw. -/
theorem test_scinit :
    answers .scinit { refWith keyedK with env := { Env.silent with entropy := nonceA ++ nonceB } }
      (fun t => resp 0x0008#16 t && t.obuf == nonceA && t.env.entropy == nonceB &&
        t.sc.head? == some { keyedK with
          na := nonceA, state := .negotiating, role := .initiator, phase := .initAwaitReply }) = true ∧
    answers .scinit .reset (fun t => resp 0x2600#16 t && t.eflags == 8#8) = true := by decide

/-- Vector H1: M2. -/
theorem test_scchal :
    answers .scchal { refWith keyedK with ibuf := nonceA, env := { Env.silent with entropy := nonceB } }
      (fun t => resp 0x0018#16 t && t.obuf == nonceB ++ respH1 &&
        t.sc.head? == some { keyedK with
          na := nonceA, nb := nonceB, state := .negotiating, role := .responder, phase := .respAwaitVerify }) = true := by
  decide +kernel

/-- Vector H1: M3; and H2: a response that does not verify. -/
theorem test_scvrfy :
    answers .scvrfy { refWith { keyedK with na := nonceA, state := .negotiating, phase := .initAwaitReply } with
        ibuf := nonceB ++ respH1 }
      (fun t => resp 0x0010#16 t && t.obuf == initvH1) = true ∧
    answers .scvrfy { tinyWith (waiting .initiator .initAwaitReply) with ibuf := [5#8, 6#8, 0#8, 1#8] }
      (fun t => resp 0x2100#16 t && t.eflags == 8#8 &&
        t.sc.head? == some { waiting .initiator .initAwaitReply with state := .failed, phase := .idle }) = true := by
  decide +kernel

/-- R220 with the trivial suite; and H3. -/
theorem test_scrvfy :
    answers .scrvfy { tinyWith (waiting .responder .respAwaitVerify) with ibuf := [0#8, 0#8] }
      (fun t => resp 0x0000#16 t && (t.sc.head?.map (·.state)) == some ScState.active) = true ∧
    answers .scrvfy { tinyWith (waiting .responder .respAwaitVerify) with ibuf := [0#8, 1#8] }
      (fun t => resp 0x2100#16 t && (t.sc.head?.map (·.state)) == some ScState.failed) = true := by decide

/-- Vectors H1 (the two session keys) and H3. -/
theorem test_scfin :
    answers (.scfin 1#8) (refWith { keyedK with
        na := nonceA, nb := nonceB, state := .negotiating, phase := .initAwaitAck, seqTx := 9#32 })
      (fun t => resp 0x0000#16 t && t.sc.head? == some { keyedK with
        na := nonceA, nb := nonceB, state := .active, kenc := kencH1, kmac := kmacH1 }) = true ∧
    answers (.scfin 0xFE#8) (tinyWith (waiting .initiator .initAwaitAck))
      (fun t => resp 0x2100#16 t && (t.sc.head?.map (·.state)) == some ScState.failed) = true := by decide +kernel

/-- Vector H4. -/
theorem test_sctmo :
    answers .sctmo (tinyWith (waiting .responder .respAwaitVerify))
      (fun t => resp 0x0000#16 t && t.eflags == 8#8 && (t.sc.head?.map (·.state)) == some ScState.failed) = true ∧
    answers .sctmo (tinyWith failed) (fun t => resp 0x2000#16 t && t.sc == (tinyWith failed).sc) = true := by decide

/-- Vector H5. -/
theorem test_scretry :
    answers .scretry (tinyWith failed) (fun t => resp 0x0000#16 t && t.sc.head? == some keyed) = true ∧
    answers .scretry (tinyWith keyed) (resp 0x2000#16) = true := by decide

/-- Vectors T1 and T11. -/
theorem test_scwrap :
    answers .scwrap { refWith { keyedK with state := .active, role := .responder, kenc := kencH1, kmac := kmacH1 } with
        txctrl := 0x0C#8, ibuf := [0x55#8, 0xAA#8] }
      (fun t => resp 0x000A#16 t && (t.sc.head?.map (·.seqTx)) == some 1#32 &&
        t.obuf == [1#8, 0#8, 0#8, 0#8, 0x56#8, 0xB5#8, 0xA3#8, 0xB3#8, 0x96#8, 0xD8#8]) = true ∧
    answers .scwrap (tinyWith { active with seqTx := 0xFFFFFFFF#32 })
      (fun t => resp 0x2500#16 t && t.eflags == 8#8) = true := by decide +kernel

/-- Vectors T2 and T3. -/
theorem test_scunwrap :
    answers .scunwrap { refWith { keyedK with state := .active, role := .initiator, kenc := kencH1, kmac := kmacH1 } with
        rxctrl := 0x0C#8
        ibuf := [1#8, 0#8, 0#8, 0#8, 0x56#8, 0xB5#8, 0xA3#8, 0xB3#8, 0x96#8, 0xD8#8] }
      (fun t => resp 0x0002#16 t && t.obuf == [0x55#8, 0xAA#8] && (t.sc.head?.map (·.seqRx)) == some 1#32) = true ∧
    answers .scunwrap { tinyWith active with ibuf := [4#8, 0#8, 0#8, 0#8, 0#8, 0#8], obuf := [0x55#8] }
      (fun t => resp 0x2300#16 t && t.obuf == [0x55#8] && t.sc.head? == some { active with fails := 1#8 }) = true := by
  decide +kernel

/-- Vectors T7 and T4: too short a region, and the failure that reaches the limit erases the keys. -/
theorem test_scunwrap_failures :
    answers .scunwrap { tinyWith { active with kenc := [7#8, 7#8], fails := 1#8 } with ibuf := zeroBytes 5 }
      (fun t => resp 0x2400#16 t && t.sc.head? == some { active with state := .failed, fails := 2#8 }) = true ∧
    answers .scunwrap { tinyWith active with ibuf := [5#8, 0#8, 0#8, 0#8, 0#8, 1#8] }
      (fun t => resp 0x2200#16 t && t.sc.head? == some { active with fails := 1#8 }) = true := by decide

/-- Vector T17. -/
theorem test_scadmit :
    answers .scadmit { tiny with rxctrl := 0x08#8 } (fun t => resp 0x2700#16 t && t.eflags == 8#8) = true ∧
    answers .scadmit tiny (resp 0x0000#16) = true ∧
    answers .scadmit { tinyWith (waiting .initiator .initAwaitReply) with rxctrl := 0x0C#8 } (resp 0x0001#16) = true ∧
    answers .scadmit { tinyWith failed with rxctrl := 0x08#8 } (resp 0x2700#16) = true := by decide

/-! ## The other agents -/

/-- 41_framer_decode.md R160, 40_framer_encode.md R147. -/
theorem test_channel_steps :
    steps { tiny with env := { Env.silent with events := [.rx 0x53#8] } }
      (fun t => t.rxbuf == [0x53#8] && t.env.events == []) = true ∧
    steps { tiny with txfifo := [1#8, 2#8], env := { Env.silent with events := [.tx] } }
      (fun t => t.txfifo == [2#8] && t.env.wire == [1#8]) = true := by decide

/-- 45_cipher_suite.md R279: the AES-128 example, key 000102..0F, plaintext 00112233..FF. -/
theorem test_aes :
    aesEncrypt
      [0x00#8, 0x01#8, 0x02#8, 0x03#8, 0x04#8, 0x05#8, 0x06#8, 0x07#8, 0x08#8, 0x09#8, 0x0A#8, 0x0B#8, 0x0C#8, 0x0D#8, 0x0E#8, 0x0F#8]
      [0x00#8, 0x11#8, 0x22#8, 0x33#8, 0x44#8, 0x55#8, 0x66#8, 0x77#8, 0x88#8, 0x99#8, 0xAA#8, 0xBB#8, 0xCC#8, 0xDD#8, 0xEE#8, 0xFF#8] =
      [0x69#8, 0xC4#8, 0xE0#8, 0xD8#8, 0x6A#8, 0x7B#8, 0x04#8, 0x30#8, 0xD8#8, 0xCD#8, 0xB7#8, 0x80#8, 0x70#8, 0xB4#8, 0xC5#8, 0x5A#8] := by
  decide +kernel

/-! ## Witnesses: the hypotheses of the statements can be met

One theorem for each statement that has hypotheses, with a case for each of its clauses, at the boundary values. -/

/-- A state whose next event is `e`. -/
def offered (e : Event) : State := { tiny with env := { Env.silent with events := [e] } }

theorem witness_StepRunsDecodedInstruction :
    (∀ w : Word16, (offered (.item (.command w))).env.events = [.item (.command w)]) ∧
    decodeItem tinyCfg (.command 0x1055#16) = .ok (.push 0x55#8) ∧
    decodeItem tinyCfg (.command 0x0200#16) = .error (.unassignedOpcode 0x02#8) ∧
    (decodeItem tinyCfg (.line (zeroBytes 12)) = .error .notOneFrame ∧ tiny.rxbuf.length + (zeroBytes 12).length = 12 ∧
      decodeItem tinyCfg (.line (zeroBytes 13)) = .error .notOneFrame ∧ tiny.cfg.rxbufSize = 12) ∧
    (decodeItem tinyCfg (.region (zeroBytes 5)) = .error .shortRegion ∧ (zeroBytes 5).length ≤ tinyCfg.maxFrameLen) ∧
    ∃ c : Cfg, decodeItem c (.region (zeroBytes 5)) = .error .shortRegion ∧ c.maxFrameLen < (zeroBytes 5).length :=
  ⟨fun _ => rfl, by decide, by decide, by decide, by decide, { tinyCfg with maxFrameLen := 4 }, by decide⟩

theorem witness_UnassignedOpcodeRaises :
    ∀ op ∈ [0x02#8, 0x05#8, 0x0F#8, 0x17#8, 0x1F#8, 0x28#8, 0x2F#8, 0x39#8, 0x3F#8, 0x4F#8, 0x50#8, 0xFF#8],
      (op = 0x02#8 ∨ (0x05#8 ≤ op ∧ op ≤ 0x0F#8) ∨ (0x17#8 ≤ op ∧ op ≤ 0x1F#8) ∨ (0x28#8 ≤ op ∧ op ≤ 0x2F#8) ∨
        (0x39#8 ≤ op ∧ op ≤ 0x3F#8) ∨ op = 0x4F#8 ∨ 0x50#8 ≤ op) := by decide

theorem witness_DecodeInvertsEncode :
    Cfg.default.valid ∧ tinyCfg.valid ∧ (Instr.scfin 0xFF#8).wf tinyCfg = true ∧
    (Instr.frameCk 0x7F#8 0x0B#8 (zeroBytes 5)).wf tinyCfg = true ∧ (Instr.frameCk 0#8 0#8 []).wf tinyCfg = true ∧
    (Instr.frameCrc 0x80#8 0xFF#8 (zeroBytes 4)).wf tinyCfg = true ∧ (Instr.frameCrc 0#8 4#8 []).wf tinyCfg = true ∧
    (Instr.spr 0xFFFFFFFF#32 (zeroBytes 5) [1#8, 2#8]).wf tinyCfg = true ∧
    (Instr.spr 0#32 [] [1#8, 2#8]).wf tinyCfg = true := by decide

theorem witness_EncodeInvertsDecode :
    decodeCommand (0x48#8 ++ 0xFF#8) = .ok (.scfin 0xFF#8) ∧ decodeCommand (0x4E#8 ++ 0xFF#8) = .ok .scfails := by decide

theorem witness_OperandAssembly :
    (0x23#8 ∉ [0x10#8, 0x20#8, 0x21#8, 0x31#8, 0x34#8, 0x40#8, 0x48#8] ∧ decodeCommand (0x23#8 ++ 0xFF#8) = .ok .decode) ∧
    (0x01#8).getLsbD 0 = (0xFF#8).getLsbD 0 ∧ (0x00#8).getLsbD 0 = (0xFE#8).getLsbD 0 := by decide

/-- RXLEN is one below its capacity of 12, and at it. -/
theorem witness_RxchStepAppendsByte :
    (∃ s : State, s.env.events = [.rx 7#8] ∧ s.rxbuf.length < s.cfg.rxbufSize ∧ s.rxbuf.length = 11) ∧
    (∃ s : State, s.env.events = [.rx 7#8] ∧ s.cfg.rxbufSize ≤ s.rxbuf.length ∧ s.rxbuf.length = 12) :=
  ⟨⟨{ offered (.rx 7#8) with rxbuf := zeroBytes 11 }, by decide⟩, ⟨{ offered (.rx 7#8) with rxbuf := zeroBytes 12 }, by decide⟩⟩

theorem witness_TxchStepRemovesHead :
    (∃ s : State, s.env.events = [.tx] ∧ s.txfifo = [1#8]) ∧ (∃ s : State, s.env.events = [.tx] ∧ s.txfifo = []) :=
  ⟨⟨{ offered .tx with txfifo := [1#8] }, by decide⟩, ⟨offered .tx, by decide⟩⟩

theorem witness_HardwareResetStep : (offered .hwReset).env.events = [.hwReset] := by decide

theorem witness_PushAppends :
    (∃ s : State, s.ibuf.length ≠ s.cfg.maxFrameLen ∧ s.ibuf.length = 10) ∧
    (∃ s : State, s.ibuf.length = s.cfg.maxFrameLen ∧ s.ibuf.length = 11) :=
  ⟨⟨{ tiny with ibuf := zeroBytes 10 }, by decide⟩, ⟨{ tiny with ibuf := zeroBytes 11 }, by decide⟩⟩

theorem witness_PopReads :
    (∃ s : State, s.obuf[s.optr.toNat]? = some 0xAA#8 ∧ s.optr = 1#16) ∧
    (∃ s : State, s.optr.toNat = s.obuf.length ∧ s.optr = 2#16) :=
  ⟨⟨{ tiny with obuf := [0x55#8, 0xAA#8], optr := 1#16 }, by decide⟩,
    ⟨{ tiny with obuf := [0x55#8, 0xAA#8], optr := 2#16 }, by decide⟩⟩

/-- One byte too long; a frame of MAX_FRAME_LEN bytes without room by one byte, and with exactly the room. -/
theorem witness_EncodeAppendsWholeFrame :
    (∃ s : State, ∃ len, len = 5 + s.ibuf.length + (if s.txctrl.getLsbD 2 then 2 else 1) ∧
      s.cfg.maxFrameLen < len ∧ len = 12) ∧
    (∃ s : State, ∃ len, len = 5 + s.ibuf.length + (if s.txctrl.getLsbD 2 then 2 else 1) ∧
      len ≤ s.cfg.maxFrameLen ∧ s.cfg.txfifoSize < s.txfifo.length + len ∧ len = 11 ∧ s.txfifo.length = 2) ∧
    (∃ s : State, ∃ len, len = 5 + s.ibuf.length + (if s.txctrl.getLsbD 2 then 2 else 1) ∧
      len ≤ s.cfg.maxFrameLen ∧ s.txfifo.length + len ≤ s.cfg.txfifoSize ∧ len = 11 ∧ s.txfifo.length = 1) :=
  ⟨⟨{ tiny with ibuf := zeroBytes 5, txctrl := 4#8 }, 12, by decide⟩,
    ⟨{ tiny with ibuf := zeroBytes 5, txfifo := zeroBytes 2 }, 11, by decide⟩,
    ⟨{ tiny with ibuf := zeroBytes 4, txctrl := 4#8, txfifo := zeroBytes 1 }, 11, by decide⟩⟩

/-- Payloads of MAX_PAYLOAD bytes, 5 and 4. -/
theorem witness_EncodedFrameLayout :
    ((0xFB#8).getLsbD 2 = false ∧ 6 + (zeroBytes 5).length ≤ tinyCfg.maxFrameLen) ∧
    ((0x04#8).getLsbD 2 = true ∧ 7 + (zeroBytes 4).length ≤ tinyCfg.maxFrameLen) ∧ tinyCfg.maxFrameLen = 11 := by decide

/-- Vectors D2 and D3, with the lengths at their limits 6, 7 and MAX_FRAME_LEN = 11. -/
theorem witness_DecodeWaitsForWholeFrame :
    tiny.rxbuf = [] ∧
    (∃ s : State, ∃ tail, s.rxbuf = s.cfg.som :: tail ∧ tail.length < 3 ∧ tail.length = 2) ∧
    (∃ s : State, s.rxbuf = [s.cfg.som, 1#8, 6#8, 0#8] ∧ 6 = (6#8).toNat + 256 * (0#8).toNat ∧ 6 ≤ s.cfg.maxFrameLen) ∧
    (∃ s : State, s.rxbuf = [s.cfg.som, 1#8, 11#8, 0#8] ∧ 11 = (11#8).toNat + 256 * (0#8).toNat ∧ 11 ≤ s.cfg.maxFrameLen) ∧
    (∃ s : State, s.rxbuf = s.cfg.som :: 1#8 :: 7#8 :: 0#8 :: 4#8 :: [9#8] ∧ 7 = (7#8).toNat + 256 * (0#8).toNat ∧
      (if (4#8).getLsbD 2 then 7 else 6) ≤ 7 ∧ 7 ≤ s.cfg.maxFrameLen ∧ 5 + [9#8].length < 7) ∧
    (∃ s : State, s.rxbuf = s.cfg.som :: 1#8 :: 6#8 :: 0#8 :: 0#8 :: [] ∧ 6 = (6#8).toNat + 256 * (0#8).toNat ∧
      (if (0#8).getLsbD 2 then 7 else 6) ≤ 6 ∧ 6 ≤ s.cfg.maxFrameLen ∧ 5 + 0 < 6) :=
  ⟨by decide, ⟨{ tiny with rxbuf := [0x53#8, 1#8, 8#8] }, [1#8, 8#8], by decide⟩,
    ⟨{ tiny with rxbuf := [0x53#8, 1#8, 6#8, 0#8] }, by decide⟩,
    ⟨{ tiny with rxbuf := [0x53#8, 1#8, 11#8, 0#8] }, by decide⟩,
    ⟨{ tiny with rxbuf := [0x53#8, 1#8, 7#8, 0#8, 4#8, 9#8] }, by decide⟩,
    ⟨{ tiny with rxbuf := [0x53#8, 1#8, 6#8, 0#8, 0#8] }, by decide⟩⟩

/-- Vectors D12 and D4. -/
theorem witness_DecodeDiscardsGarbage :
    (∃ s : State, s.rxbuf = [0xAA#8, 0xBB#8] ++ [] ∧ ∀ b ∈ [0xAA#8, 0xBB#8], b ≠ s.cfg.som) ∧
    (∃ s : State, s.rxbuf = [0xFF#8] ++ [0x53#8, 0#8] ∧ (∀ b ∈ [0xFF#8], b ≠ s.cfg.som) ∧
      [0x53#8, 0#8].head? = some s.cfg.som) :=
  ⟨⟨{ tiny with rxbuf := [0xAA#8, 0xBB#8] }, by decide⟩, ⟨{ tiny with rxbuf := [0xFF#8, 0x53#8, 0#8] }, by decide⟩⟩

/-- Lengths 5 and 12 beside the range 6 to MAX_FRAME_LEN = 11, and length 6 with the CRC bit (vectors D9, D8, D10). -/
theorem witness_DecodeRejectsBadLength :
    (∃ s : State, ∃ len, s.rxbuf = s.cfg.som :: 0#8 :: 5#8 :: 0#8 :: [] ∧ len = (5#8).toNat + 256 * (0#8).toNat ∧ len < 6 ∧
      0#8 :: 5#8 :: 0#8 :: [] = [0#8, 5#8, 0#8] ++ [] ∧ ∀ b ∈ [0#8, 5#8, 0#8], b ≠ s.cfg.som) ∧
    (∃ s : State, ∃ len, s.rxbuf = s.cfg.som :: 0#8 :: 12#8 :: 0#8 :: [0x53#8] ∧ len = (12#8).toNat + 256 * (0#8).toNat ∧
      s.cfg.maxFrameLen < len ∧ 0#8 :: 12#8 :: 0#8 :: [0x53#8] = [0#8, 12#8, 0#8] ++ [0x53#8] ∧
      (∀ b ∈ [0#8, 12#8, 0#8], b ≠ s.cfg.som) ∧ [0x53#8].head? = some s.cfg.som) ∧
    (∃ s : State, ∃ len, s.rxbuf = s.cfg.som :: 0#8 :: 6#8 :: 0#8 :: [4#8] ∧ len = (6#8).toNat + 256 * (0#8).toNat ∧
      len = 6 ∧ (∃ k, [4#8].head? = some k ∧ k.getLsbD 2 = true) ∧ ∀ b ∈ [0#8, 6#8, 0#8, 4#8], b ≠ s.cfg.som) :=
  ⟨⟨{ tiny with rxbuf := [0x53#8, 0#8, 5#8, 0#8] }, 5, by decide⟩,
    ⟨{ tiny with rxbuf := [0x53#8, 0#8, 12#8, 0#8, 0x53#8] }, 12, by decide⟩,
    ⟨{ tiny with rxbuf := [0x53#8, 0#8, 6#8, 0#8, 4#8] }, 6, by decide, by decide, rfl, ⟨4#8, by decide⟩, by decide⟩⟩

/-- A shortest FRAME.CK with checksum 01 for 00, garbage and a marker behind; a shortest FRAME.CRC with trailer `44 C5`
for `44 C4` (vector E2). -/
theorem witness_DecodeRejectsBadTrailer :
    (∃ s : State, s.rxbuf = s.cfg.som :: 0#8 :: 6#8 :: 0#8 :: 0#8 :: ([] ++ [1#8] ++ [9#8] ++ [0x53#8]) ∧
      5 + 0 + [1#8].length = (6#8).toNat + 256 * (0#8).toNat ∧ 5 + 0 + [1#8].length ≤ s.cfg.maxFrameLen ∧
      (0#8).getLsbD 2 = false ∧ [1#8].length = 1 ∧ [1#8] ≠ [cksum [0#8, 0#8]] ∧ (∀ b ∈ [9#8], b ≠ s.cfg.som) ∧
      [0x53#8].head? = some s.cfg.som) ∧
    (∃ s : State, s.rxbuf = s.cfg.som :: 0#8 :: 7#8 :: 0#8 :: 4#8 :: ([] ++ [0x44#8, 0xC5#8] ++ [] ++ []) ∧
      5 + 0 + [0x44#8, 0xC5#8].length = (7#8).toNat + 256 * (0#8).toNat ∧ 7 ≤ s.cfg.maxFrameLen ∧
      (4#8).getLsbD 2 = true ∧ [0x44#8, 0xC5#8].length = 2 ∧
      [0x44#8, 0xC5#8] ≠ [(crc16 s.cfg [0#8, 4#8]).extractLsb' 0 8, (crc16 s.cfg [0#8, 4#8]).extractLsb' 8 8]) :=
  ⟨⟨{ tiny with rxbuf := [0x53#8, 0#8, 6#8, 0#8, 0#8, 1#8, 9#8, 0x53#8] }, by decide +kernel⟩,
    ⟨{ tiny with rxbuf := [0x53#8, 0#8, 7#8, 0#8, 4#8, 0x44#8, 0xC5#8] }, by decide +kernel⟩⟩

/-- A longest frame of each kind, with bytes behind. -/
theorem witness_DecodeDeliversEncodedFrame :
    (∃ s : State, s.cfg.maxFrameLen ≤ 65535 ∧ 5 + (zeroBytes 5).length + (if (0#8).getLsbD 2 then 2 else 1) ≤ s.cfg.maxFrameLen ∧
      s.rxbuf = encodeFrame s.cfg 1#8 0#8 (zeroBytes 5) ++ [9#8]) ∧
    (∃ s : State, s.cfg.maxFrameLen ≤ 65535 ∧ 5 + (zeroBytes 4).length + (if (4#8).getLsbD 2 then 2 else 1) ≤ s.cfg.maxFrameLen ∧
      s.rxbuf = encodeFrame s.cfg 1#8 4#8 (zeroBytes 4) ++ [9#8]) :=
  ⟨⟨{ tiny with rxbuf := encodeFrame tinyCfg 1#8 0#8 (zeroBytes 5) ++ [9#8] }, by decide, by decide, rfl⟩,
    ⟨{ tiny with rxbuf := encodeFrame tinyCfg 1#8 4#8 (zeroBytes 4) ++ [9#8] }, by decide, by decide, rfl⟩⟩

theorem witness_DecodeMakesProgress :
    ∃ s : State, s.cfg.valid ∧ s.cfg.maxFrameLen ≤ s.rxbuf.length ∧ s.rxbuf.length = 11 :=
  ⟨{ tiny with rxbuf := zeroBytes 11 }, by decide⟩

/-- The two frames of vectors E3 and E4, the checksum 00 of the first changed to 01 (vector D5). -/
theorem witness_DamagedTrailerCostsOneFrame :
    ∃ s : State, s.cfg.maxFrameLen ≤ 65535 ∧ 5 + 2 + (if (0#8).getLsbD 2 then 2 else 1) ≤ s.cfg.maxFrameLen ∧
      5 + 2 + (if (5#8).getLsbD 2 then 2 else 1) ≤ s.cfg.maxFrameLen ∧
      encodeFrame s.cfg 1#8 0#8 [0x55#8, 0xAA#8] =
        (encodeFrame s.cfg 1#8 0#8 [0x55#8, 0xAA#8]).take (5 + [0x55#8, 0xAA#8].length) ++ [0#8] ∧
      [1#8].length = [0#8].length ∧ [1#8] ≠ [0#8] ∧
      s.rxbuf = (encodeFrame s.cfg 1#8 0#8 [0x55#8, 0xAA#8]).take (5 + [0x55#8, 0xAA#8].length) ++ [1#8] ++
        encodeFrame s.cfg 0x81#8 5#8 [0x55#8, 0xAA#8] :=
  ⟨{ tiny with rxbuf := [0x53#8, 0x01#8, 0x08#8, 0x00#8, 0x00#8, 0x55#8, 0xAA#8, 0x01#8] ++
      [0x53#8, 0x81#8, 0x09#8, 0x00#8, 0x05#8, 0x55#8, 0xAA#8, 0x86#8, 0xAB#8] }, by decide +kernel⟩

/-- A delivery, an E_LEN and an E_TRL (vectors D1 with E1, D9, D5). -/
theorem witness_ArrivalsDoNotChangeTheOutcome :
    answers .decode { tiny with rxbuf := [0x53#8, 0#8, 6#8, 0#8, 0#8, 0#8] } (resp (0x00#8 ++ 0x00#8)) = true ∧
    answers .decode { tiny with rxbuf := [0x53#8, 0#8, 5#8, 0#8] } (resp 0x1100#16) = true ∧
    answers .decode { tiny with rxbuf := [0x53#8, 0#8, 6#8, 0#8, 0#8, 1#8] } (resp 0x1200#16) = true := by decide

/-- RXBUF of 12 bytes, with 6 bytes and 7 bytes to come: exactly the room, and one byte less. -/
theorem witness_FrameRowsReceiveTheirBytes :
    (∃ s : State, s.rxbuf.length + (6 + 0) ≤ s.cfg.rxbufSize ∧ s.rxbuf.length = 6) ∧
    (∃ s : State, s.rxbuf.length + (7 + 0) ≤ s.cfg.rxbufSize ∧ s.rxbuf.length = 5) ∧
    (∃ s : State, s.cfg.rxbufSize < s.rxbuf.length + (6 + 0) ∧ s.rxbuf.length = 7) ∧
    (∃ s : State, s.cfg.rxbufSize < s.rxbuf.length + (7 + 0) ∧ s.rxbuf.length = 6) :=
  ⟨⟨{ tiny with rxbuf := zeroBytes 6 }, by decide⟩, ⟨{ tiny with rxbuf := zeroBytes 5 }, by decide⟩,
    ⟨{ tiny with rxbuf := zeroBytes 7 }, by decide⟩, ⟨{ tiny with rxbuf := zeroBytes 6 }, by decide⟩⟩

/-- A region of BUF_SIZE bytes, 11, and one of a byte more. -/
theorem witness_SprRowLoadsTheOperandBuffer :
    ([1#8, 0#8, 0#8, 0#8] ++ zeroBytes 5 ++ [1#8, 2#8]).length ≤ tiny.cfg.maxFrameLen ∧
    tiny.cfg.maxFrameLen < ([1#8, 0#8, 0#8, 0#8] ++ zeroBytes 6 ++ [1#8, 2#8]).length ∧ tiny.cfg.maxFrameLen = 11 := by
  decide

theorem witness_ScselSelects :
    tiny.cfg.nCtx ≤ (2#8).toNat ∧ tiny.cfg.nCtx ≤ (0xFF#8).toNat ∧ (0#8).toNat < tiny.cfg.nCtx ∧
    (1#8).toNat < tiny.cfg.nCtx := by decide

theorem witness_ContextStatusCommands : (tinyWith active).selected active := by decide

theorem witness_SckeyLoadsSecret :
    ((tinyWith active).selected active ∧ active.state ≠ .inactive) ∧
    (tiny.selected (Context.reset tinyCfg) ∧ (Context.reset tinyCfg).state = .inactive ∧ tiny.ibuf.length ≠ tiny.cfg.keyLen) ∧
    (∃ s : State, s.selected (Context.reset tinyCfg) ∧ s.ibuf.length = s.cfg.keyLen) :=
  ⟨by decide, by decide, ⟨{ tiny with ibuf := [1#8, 2#8] }, by decide⟩⟩

theorem witness_ScclrErasesContext : (tinyWith active).selected active ∧ tiny.selected (Context.reset tinyCfg) := by decide

/-- The last clause with the entropy input holding exactly NONCE_LEN bytes. -/
theorem witness_ScinitStartsHandshake :
    ((tinyWith active).selected active ∧ active.state ≠ .inactive) ∧
    (tiny.selected (Context.reset tinyCfg) ∧ (Context.reset tinyCfg).state = .inactive ∧
      (Context.reset tinyCfg).pskValid = false) ∧
    (∃ s : State, s.selected keyed ∧ keyed.state = .inactive ∧ keyed.pskValid = true ∧
      s.cfg.nonceLen ≤ s.env.entropy.length ∧ s.env.entropy.length = 2) :=
  ⟨by decide, by decide, ⟨{ tinyWith keyed with env := { Env.silent with entropy := [1#8, 2#8] } }, by decide⟩⟩

theorem witness_ScchalAnswersChallenge :
    ((tinyWith active).selected active ∧ active.state ≠ .inactive) ∧
    (tiny.selected (Context.reset tinyCfg) ∧ (Context.reset tinyCfg).state = .inactive ∧
      (Context.reset tinyCfg).pskValid = false) ∧
    (∃ s : State, s.selected keyed ∧ keyed.state = .inactive ∧ keyed.pskValid = true ∧ s.ibuf.length ≠ s.cfg.nonceLen) ∧
    (∃ s : State, s.selected keyed ∧ keyed.state = .inactive ∧ keyed.pskValid = true ∧ s.ibuf.length = s.cfg.nonceLen) :=
  ⟨by decide, by decide, ⟨{ tinyWith keyed with ibuf := zeroBytes 3 }, by decide⟩,
    ⟨{ tinyWith keyed with ibuf := zeroBytes 2 }, by decide⟩⟩

/-- The last two clauses with the trivial suite, whose response is `00 00`. -/
theorem witness_ScvrfyChecksResponse :
    ((tinyWith (waiting .responder .respAwaitVerify)).selected (waiting .responder .respAwaitVerify) ∧
      ¬((waiting .responder .respAwaitVerify).state = .negotiating ∧
        (waiting .responder .respAwaitVerify).role = .initiator ∧
        (waiting .responder .respAwaitVerify).phase = .initAwaitReply)) ∧
    (∃ s : State, s.selected (waiting .initiator .initAwaitReply) ∧ s.ibuf.length ≠ s.cfg.nonceLen + s.cfg.verifLen) ∧
    (∃ s : State, s.selected (waiting .initiator .initAwaitReply) ∧ s.ibuf = [5#8, 6#8] ++ [0#8, 1#8] ∧
      [0#8, 1#8] ≠ (suiteOf s.cfg).resp [1#8, 2#8] [3#8, 4#8] [5#8, 6#8]) ∧
    (∃ s : State, s.selected (waiting .initiator .initAwaitReply) ∧ s.ibuf = [5#8, 6#8] ++ [0#8, 0#8] ∧
      [0#8, 0#8] = (suiteOf s.cfg).resp [1#8, 2#8] [3#8, 4#8] [5#8, 6#8]) :=
  ⟨by decide, ⟨{ tinyWith (waiting .initiator .initAwaitReply) with ibuf := zeroBytes 3 }, by decide⟩,
    ⟨{ tinyWith (waiting .initiator .initAwaitReply) with ibuf := [5#8, 6#8, 0#8, 1#8] }, by decide⟩,
    ⟨{ tinyWith (waiting .initiator .initAwaitReply) with ibuf := [5#8, 6#8, 0#8, 0#8] }, by decide⟩⟩

theorem witness_ScrvfyActivatesResponder :
    ((tinyWith keyed).selected keyed ∧ keyed.state ≠ .negotiating) ∧
    (∃ s : State, s.selected (waiting .responder .respAwaitVerify) ∧ s.ibuf.length ≠ s.cfg.verifLen) ∧
    (∃ s : State, s.selected (waiting .responder .respAwaitVerify) ∧ s.ibuf.length = s.cfg.verifLen ∧
      s.ibuf ≠ (suiteOf s.cfg).initv [1#8, 2#8] [3#8, 4#8] [5#8, 6#8]) ∧
    (∃ s : State, s.selected (waiting .responder .respAwaitVerify) ∧ s.ibuf.length = s.cfg.verifLen ∧
      s.ibuf = (suiteOf s.cfg).initv [1#8, 2#8] [3#8, 4#8] [5#8, 6#8]) :=
  ⟨by decide, ⟨{ tinyWith (waiting .responder .respAwaitVerify) with ibuf := zeroBytes 1 }, by decide⟩,
    ⟨{ tinyWith (waiting .responder .respAwaitVerify) with ibuf := [0#8, 1#8] }, by decide⟩,
    ⟨{ tinyWith (waiting .responder .respAwaitVerify) with ibuf := [0#8, 0#8] }, by decide⟩⟩

theorem witness_ScfinTakesVerdict :
    ((tinyWith (waiting .initiator .initAwaitReply)).selected (waiting .initiator .initAwaitReply) ∧
      (waiting .initiator .initAwaitReply).phase ≠ .initAwaitAck) ∧
    ((tinyWith (waiting .initiator .initAwaitAck)).selected (waiting .initiator .initAwaitAck) ∧
      (waiting .initiator .initAwaitAck).state = .negotiating ∧ (waiting .initiator .initAwaitAck).role = .initiator ∧
      (waiting .initiator .initAwaitAck).phase = .initAwaitAck ∧ (0xFE#8).getLsbD 0 = false ∧ (0x01#8).getLsbD 0 = true) := by
  decide

theorem witness_TimeoutAndRetry :
    ((tinyWith active).selected active ∧ active.state ≠ .negotiating ∧ active.state ≠ .failed) ∧
    ((tinyWith failed).selected failed ∧ failed.state = .failed) ∧
    ((tinyWith (waiting .initiator .initAwaitAck)).selected (waiting .initiator .initAwaitAck) ∧
      (waiting .initiator .initAwaitAck).state = .negotiating) := by decide

/-- BUF_SIZE = 11, SEC_OVH = 6: six plaintext bytes are too many, five are not; the counter at its last value, and one
below. -/
theorem witness_ScwrapProtects :
    ((tinyWith keyed).selected keyed ∧ keyed.state ≠ .active) ∧
    (∃ s : State, s.selected active ∧ active.state = .active ∧ s.cfg.maxFrameLen < s.ibuf.length + (4 + s.cfg.tagLen) ∧
      s.ibuf.length = 6) ∧
    (∃ s : State, ∃ c, s.selected c ∧ c.state = .active ∧ s.ibuf.length + (4 + s.cfg.tagLen) ≤ s.cfg.maxFrameLen ∧
      c.seqTx = 0xFFFFFFFF#32 ∧ s.ibuf.length = 5) ∧
    (∃ s : State, ∃ c, s.selected c ∧ c.state = .active ∧ s.ibuf.length + (4 + s.cfg.tagLen) ≤ s.cfg.maxFrameLen ∧
      c.seqTx ≠ 0xFFFFFFFF#32 ∧ s.ibuf.length = 5 ∧ c.seqTx = 0xFFFFFFFE#32) :=
  ⟨by decide, ⟨{ tinyWith active with ibuf := zeroBytes 6 }, by decide⟩,
    ⟨{ tinyWith { active with seqTx := 0xFFFFFFFF#32 } with ibuf := zeroBytes 5 }, { active with seqTx := 0xFFFFFFFF#32 },
      by decide⟩,
    ⟨{ tinyWith { active with seqTx := 0xFFFFFFFE#32 } with ibuf := zeroBytes 5 }, { active with seqTx := 0xFFFFFFFE#32 },
      by decide⟩⟩

/-- `seq_rx` is 4: a region one byte short, SEQ 4, and SEQ 5 with a wrong and with the right tag of the trivial suite. -/
theorem witness_ScunwrapAdmitsOnlyVerified :
    ((tinyWith keyed).selected keyed ∧ keyed.state ≠ .active) ∧
    (∃ s : State, s.selected active ∧ s.ibuf.length < 4 + s.cfg.tagLen ∧ s.ibuf.length = 5) ∧
    (∃ s : State, s.selected active ∧ s.ibuf = 4#8 :: 0#8 :: 0#8 :: 0#8 :: ([9#8] ++ [0#8, 0#8]) ∧
      [0#8, 0#8].length = s.cfg.tagLen ∧ 4#32 = 0#8 ++ 0#8 ++ 0#8 ++ 4#8 ∧ 4#32 ≤ active.seqRx) ∧
    (∃ s : State, s.selected active ∧ s.ibuf = 5#8 :: 0#8 :: 0#8 :: 0#8 :: ([9#8] ++ [0#8, 1#8]) ∧
      5#32 = 0#8 ++ 0#8 ++ 0#8 ++ 5#8 ∧ active.seqRx < 5#32 ∧
      (suiteOf s.cfg).mac active.kmac s.rxaddr s.rxctrl 5#32 ((suiteOf s.cfg).dec active.kenc 1#1 5#32 [9#8]) ≠ [0#8, 1#8]) ∧
    (∃ s : State, s.selected active ∧ s.ibuf = 5#8 :: 0#8 :: 0#8 :: 0#8 :: ([9#8] ++ [0#8, 0#8]) ∧
      5#32 = 0#8 ++ 0#8 ++ 0#8 ++ 5#8 ∧ active.seqRx < 5#32 ∧
      (suiteOf s.cfg).mac active.kmac s.rxaddr s.rxctrl 5#32 ((suiteOf s.cfg).dec active.kenc 1#1 5#32 [9#8]) = [0#8, 0#8]) :=
  ⟨by decide, ⟨{ tinyWith active with ibuf := zeroBytes 5 }, by decide⟩,
    ⟨{ tinyWith active with ibuf := [4#8, 0#8, 0#8, 0#8, 9#8, 0#8, 0#8] }, by decide⟩,
    ⟨{ tinyWith active with ibuf := [5#8, 0#8, 0#8, 0#8, 9#8, 0#8, 1#8] }, by decide⟩,
    ⟨{ tinyWith active with ibuf := [5#8, 0#8, 0#8, 0#8, 9#8, 0#8, 0#8] }, by decide⟩⟩

theorem witness_ScadmitRejectsSecureWithoutContext :
    (∃ s : State, s.selected failed ∧ s.rxctrl.getLsbD 3 = true ∧ failed.state = .failed) ∧
    (∃ s : State, s.selected keyed ∧ s.rxctrl.getLsbD 3 = true ∧ keyed.state = .inactive) ∧
    (∃ s : State, s.selected active ∧ s.rxctrl.getLsbD 3 = true ∧ active.state = .active) ∧
    (∃ s : State, s.selected (waiting .initiator .initAwaitAck) ∧ s.rxctrl.getLsbD 3 = true) ∧
    (∃ s : State, s.selected keyed ∧ s.rxctrl.getLsbD 3 = false ∧ s.rxctrl = 0xF7#8) :=
  ⟨⟨{ tinyWith failed with rxctrl := 8#8 }, by decide⟩, ⟨{ tinyWith keyed with rxctrl := 8#8 }, by decide⟩,
    ⟨{ tinyWith active with rxctrl := 0xFF#8 }, by decide⟩,
    ⟨{ tinyWith (waiting .initiator .initAwaitAck) with rxctrl := 8#8 }, by decide⟩,
    ⟨{ tinyWith keyed with rxctrl := 0xF7#8 }, by decide⟩⟩

/-- A SCUNWRAP that answers OK with one byte of plaintext. -/
theorem witness_ReplayIsRejected :
    answers .scunwrap { tinyWith active with ibuf := [5#8, 0#8, 0#8, 0#8, 9#8, 0#8, 0#8] } (resp (0x00#8 ++ 0x01#8)) = true := by
  decide

/-- Context 0 wraps at SEQ 5; a context of the other role that has accepted SEQ 4 receives. -/
theorem witness_UnwrapInvertsWrap :
    ∃ s r : State, ∃ c : Context, s.cfg.valid ∧ r.cfg = s.cfg ∧ s.selected active ∧
      answers .scwrap s (fun t => resp (0x00#8 ++ 0x08#8) t && r.ibuf == t.obuf) = true ∧
      r.selected c ∧ c.state = .active ∧ c.kenc = active.kenc ∧ c.kmac = active.kmac ∧ c.role ≠ active.role ∧
      c.seqRx < active.seqTx + 1#32 ∧ r.rxaddr = s.txaddr ∧ r.rxctrl = s.txctrl :=
  ⟨{ tinyWith active with ibuf := [8#8, 9#8] },
    { tinyWith { active with role := .responder } with ibuf := [5#8, 0#8, 0#8, 0#8, 8#8, 9#8, 0#8, 0#8] },
    { active with role := .responder }, by decide⟩

theorem witness_HandshakeReachesActive :
    ∃ s : State, s.inv ∧ (0#8 : Byte) ≠ 1#8 ∧ s.sc[(0#8 : Byte).toNat]? = some keyed ∧ s.sc[(1#8 : Byte).toNat]? = some keyed ∧
      keyed.state = .inactive ∧ keyed.pskValid = true :=
  ⟨{ tiny with sc := [keyed, keyed] }, by decide⟩

/-- The last clause but one is met by the vectors it names. A table that exchanges two texts, both ways. -/
theorem witness_SuiteIsAsSpecified :
    Cfg.default.valid ∧ tinyCfg.valid ∧ Cfg.default.suite = .ref ∧ tinyCfg.suite = .null ∧
    (∃ t : SuiteTable, ({ tinyCfg with suite := .table t } : Cfg).valid ∧
      (suiteTable tinyCfg t).enc [9#8] 1#1 2#32 [3#8] = [4#8] ∧ (suiteTable tinyCfg t).dec [9#8] 1#1 2#32 [4#8] = [3#8] ∧
      (suiteTable tinyCfg t).enc [9#8] 0#1 2#32 [3#8] = [3#8]) ∧
    ((zeroBytes 16).length = 16 ∧ (zeroBytes 16).length ≤ 16 ∧ ([7#8] = [] → [zeroBytes 16] = [])) ∧
    [3#8][0]? = some 3#8 :=
  ⟨by decide, by decide, by decide, by decide,
    ⟨⟨[], [], [], [], [⟨[9#8], 1#1, 2#32, [3#8], [4#8]⟩], []⟩, by decide⟩, by decide, by decide⟩

theorem witness_EveryStepKeepsInvariant :
    (offered (.item (.command 0x1055#16))).inv ∧
    steps (offered (.item (.command 0x1055#16))) (fun t => t.ibuf == [0x55#8]) = true := by decide

theorem witness_NoStepChangesTheConfiguration :
    steps (offered .hwReset) (fun t => t.cfg == tinyCfg) = true := by decide

theorem witness_ContextsAreIndependent : (Instr.scclr ≠ .reset) ∧ (1 : Nat) ≠ tiny.ctx.toNat := by decide

theorem witness_ContextTransitions :
    answers .sctmo (tinyWith (waiting .initiator .initAwaitAck))
      (fun t => t.sc[0]? == some { waiting .initiator .initAwaitAck with state := .failed, phase := .idle }) = true ∧
    (tinyWith (waiting .initiator .initAwaitAck)).sc[0]? = some (waiting .initiator .initAwaitAck) := by decide

theorem witness_CountersRiseWhileActive :
    answers .scwrap (tinyWith active) (fun t => t.sc[0]? == some { active with seqTx := 5#32 }) = true ∧
    (tinyWith active).sc[0]? = some active ∧ active.state = .active ∧ (0 : Nat) = (tinyWith active).ctx.toNat ∧
    answers .scwrap (tinyWith active) (fun t => t.env.resp == some (0x00#8 ++ 0x06#8)) = true ∧
    answers .scunwrap { tinyWith active with ibuf := [5#8, 0#8, 0#8, 0#8, 0#8, 0#8] } (fun t =>
      t.env.resp == some (0x00#8 ++ 0x00#8) && t.sc[0]? == some { active with seqRx := 5#32 }) = true ∧
    answers .scunwrap (tinyWith active) (fun t => t.env.resp == some (0x24#8 ++ 0x00#8) &&
      t.sc[0]? == some { active with fails := active.fails + 1#8 }) = true := by decide

theorem witness_FlagsAreStickyAndInert :
    answers .pop { tiny with eflags := 7#8 } (fun t => t.eflags == 0x17#8) = true ∧
    answers .clrflags { tiny with eflags := 7#8 } (fun t => t.eflags == 0#8) = true ∧
    Instr.pop ≠ .clrflags ∧ Instr.pop ≠ .reset ∧ Instr.pop ≠ .rdflags ∧ IsCommand .pop := by
  refine ⟨by decide, by decide, by decide, by decide, by decide, by simp [IsCommand]⟩

theorem witness_AccumulatorCommands :
    (0x03#8 : Byte) = [1#8, 2#8].foldl (· + ·) 0#8 ∧
    (0x1D0F#16 : Word16) = [].foldl (crcStep 0x1021#16) 0x1D0F#16 ∧
    ∃ a : Nat → Word16, a 0 = 0x1D0F#16 ^^^ ((BitVec.setWidth 16 0x31#8) <<< 8) ∧
      ∀ n < 8, ((a n).getLsbD 15 = true → a (n + 1) = ((a n) <<< 1) ^^^ 0x1021#16) ∧
        ((a n).getLsbD 15 = false → a (n + 1) = (a n) <<< 1) := by
  refine ⟨by decide, by decide, ?_⟩
  let a : Nat → Word16 := fun n => n.rec (0x1D0F#16 ^^^ ((BitVec.setWidth 16 0x31#8) <<< 8))
    fun _ v => if v.getLsbD 15 then (v <<< 1) ^^^ 0x1021#16 else v <<< 1
  exact ⟨a, rfl, fun n _ => ⟨fun h => if_pos h, fun h => if_neg (Bool.eq_false_iff.mp h)⟩⟩

theorem witness_EveryCommandAnswersAStatus : IsCommand .pop ∧ IsCommand (.scfin 1#8) := by simp [IsCommand]

end Sys2Proof.Tests
end

/-! # Scope: what a step does with the item at a port (00_scope.md R4) -/

namespace Sys2Proof.Machine

/-! ## The step and its two branches -/

theorem State.dropEvent_of_events_eq_cons {s : State} {ev : Event} {rest : List Event}
    (h : s.env.events = ev :: rest) : s.dropEvent = { s with env := { s.env with events := rest } } := by
  rw [State.dropEvent, h, List.tail_cons]

/-- An item at the head of the list is taken off it, and the block does with it what `stepItem` says. -/
theorem step_of_item {s : State} {e : Encoded} {rest : List Event} (h : s.env.events = .item e :: rest) :
    step s = stepItem e { s with env := { s.env with events := rest } } := by
  have hnext : s.nextEvent = some (.item e) := by rw [State.nextEvent, h, List.head?_cons]
  rw [step, hnext, ← State.dropEvent_of_events_eq_cons h]

theorem stepItem_of_decodeItem_ok {s : State} {e : Encoded} {i : Instr} (h : decodeItem s.cfg e = .ok i) :
    stepItem e s = exec i s := by
  rw [stepItem, h]

theorem stepItem_of_decodeItem_error {s : State} {e : Encoded} {why : DecodeError}
    (h : decodeItem s.cfg e = .error why) : stepItem e s = s.undecoded e := by
  rw [stepItem, h]

/-! ## An item that decodes to nothing, port by port -/

/-- A command word with an unassigned opcode raises E_OPCODE (30_encoding.md R122). -/
theorem State.undecoded_command (w : Word16) (s : State) :
    s.undecoded (.command w) = .next (s.raised 0x30#8 0x10#8) := rfl

/-- Bytes that are no frame are appended to RXBUF when they have room (41_framer_decode.md R160). -/
theorem State.undecoded_line_of_le {bytes : List Byte} {s : State}
    (h : s.rxbuf.length + bytes.length ≤ s.cfg.rxbufSize) :
    s.undecoded (.line bytes) = .next { s with rxbuf := s.rxbuf ++ bytes } :=
  State.rxSteps_of_le h

/-- Bytes that are no frame and have no room are not enabled (41_framer_decode.md R160; log entry 1). -/
theorem State.undecoded_line_of_lt {bytes : List Byte} {s : State}
    (h : s.cfg.rxbufSize < s.rxbuf.length + bytes.length) :
    s.undecoded (.line bytes) = .fault .rxchNotEnabled :=
  State.rxSteps_of_lt h

/-- A region of at most BUF_SIZE bytes is loaded and answers OK (30_encoding.md R127; log entry 3). -/
theorem State.undecoded_region_of_le {bytes : List Byte} {s : State} (h : bytes.length ≤ s.cfg.maxFrameLen) :
    s.undecoded (.region bytes) = .next (({ s with ibuf := bytes } : State).answered 0x00#8) :=
  congrArg Host.Outcome.next (s.load_of_le bytes h)

/-- A longer region is cut to BUF_SIZE bytes and raises E_OVERFLOW (46_host_ops.md R305; log entry 3). -/
theorem State.undecoded_region_of_gt {bytes : List Byte} {s : State} (h : s.cfg.maxFrameLen < bytes.length) :
    s.undecoded (.region bytes) =
      .next (({ s with ibuf := bytes.take s.cfg.maxFrameLen } : State).raised 0x31#8 0x10#8) :=
  congrArg Host.Outcome.next (s.load_of_gt bytes h)

/-! ## The obligation -/

/-- Settles O1: the step is `stepItem` at the state without the event; a decoded item runs, and for one that decodes
to nothing the rule of its port says the outcome. -/
theorem stepRunsDecodedInstruction : Obligations.StepRunsDecodedInstruction := by
  unfold Obligations.StepRunsDecodedInstruction
  rintro s t e rest hev rfl
  refine ⟨fun i hi => ?decodes, fun why hwhy => ?decodesToNothing⟩
  case decodes => exact (step_of_item hev).trans (stepItem_of_decodeItem_ok hi)
  case decodesToNothing =>
    have hstep := (step_of_item hev).trans (stepItem_of_decodeItem_error hwhy)
    refine ⟨step_of_item hev, ?command, ?line, ?region⟩
    case command =>
      rintro w rfl
      exact hstep.trans (State.undecoded_command w _)
    case line =>
      rintro bytes rfl
      exact ⟨fun hle => hstep.trans (State.undecoded_line_of_le hle),
        fun hlt => hstep.trans (State.undecoded_line_of_lt hlt)⟩
    case region =>
      rintro bytes rfl
      exact ⟨fun hle => hstep.trans (State.undecoded_region_of_le hle),
        fun hgt => hstep.trans (State.undecoded_region_of_gt hgt)⟩

end Sys2Proof.Machine

/-! # The reset state (10_state.md R60) -/

namespace Sys2Proof.Machine

/-- Every piece of state has its reset value after the transition that RESET and the reset input share. -/
theorem State.atReset_resetBlock (s : State) : s.resetBlock.atReset := by
  refine ⟨rfl, rfl, rfl, rfl, rfl, rfl, rfl, rfl, rfl, rfl, rfl, rfl, rfl, by simp, fun c hc => ?_⟩
  obtain rfl := List.eq_of_mem_replicate hc
  exact ⟨rfl, rfl, rfl, rfl, rfl, rfl, rfl, rfl, rfl, rfl, rfl, rfl⟩

/-- `State.reset` is what the reset transition makes of itself. -/
theorem State.resetBlock_reset : State.reset.resetBlock = State.reset := rfl

/-- Settles O10: all three states are `resetBlock` of a state, up to the response. -/
theorem resetStateHasResetValues : Obligations.ResetStateHasResetValues := by
  unfold Obligations.ResetStateHasResetValues
  exact ⟨State.reset.atReset_resetBlock, rfl, fun s => ⟨s.atReset_resetBlock, _, rfl, s.atReset_resetBlock⟩⟩

/-! # The invariant after reset (10_state.md R50) -/

/-- A context at its reset value meets 10_state.md R50. -/
theorem Context.inv_reset (cfg : Cfg) : Context.inv cfg (Context.reset cfg) := by
  simp [Context.inv, Context.sized, Context.reset]

/-- The reset transition gives a state of the invariant, from any state with a valid configuration. -/
theorem State.inv_resetBlock {s : State} (hcfg : s.cfg.valid) : s.resetBlock.inv := by
  have ⟨_, _, _, _, hnCtx, _⟩ := hcfg
  refine ⟨hcfg, Memory.wf_resetBlock s, hnCtx, by simp, by simp, fun c hc => ?_⟩
  obtain rfl := List.eq_of_mem_replicate hc
  exact Context.inv_reset s.cfg

/-- Settles O53: the default configuration is valid, and `State.reset` is a state after the reset transition. -/
theorem invariantHoldsAtReset : Obligations.InvariantHoldsAtReset := by
  unfold Obligations.InvariantHoldsAtReset
  rw [← State.resetBlock_reset]
  exact State.inv_resetBlock (by decide)

end Sys2Proof.Machine

/-! # The suite of a valid configuration (45_cipher_suite.md R262, R263) -/

namespace Sys2Proof.Machine

theorem suiteRef_lawful {c : Cfg} (hkey : c.keyLen = 16) (hverif : c.verifLen = 16) (htag : c.tagLen ≤ 16) :
    (suiteRef c).Lawful c where
  dec_enc := refCrypt_refCrypt
  enc_length := refCrypt_length
  dec_length := refCrypt_length
  resp_length k na nb := (cmac_length ..).trans hverif.symm
  initv_length k na nb := (cmac_length ..).trans hverif.symm
  kdfEnc_length k na nb := (cmac_length ..).trans hkey.symm
  kdfMac_length k na nb := (cmac_length ..).trans hkey.symm
  mac_length k a x q p := by simpa [suiteRef] using htag

theorem suiteNull_lawful (c : Cfg) : (suiteNull c).Lawful c where
  dec_enc _ _ _ _ := rfl
  enc_length _ _ _ _ := rfl
  dec_length _ _ _ _ := rfl
  resp_length _ _ _ := List.length_replicate
  initv_length _ _ _ := List.length_replicate
  kdfEnc_length _ _ _ := List.length_replicate
  kdfMac_length _ _ _ := List.length_replicate
  mac_length _ _ _ _ _ := List.length_replicate

theorem suiteTable_enc_length (c : Cfg) (t : SuiteTable) (k : List Byte) (d : BitVec 1) (q : Word32) (p : List Byte) :
    ((suiteTable c t).enc k d q p).length = p.length :=
  foldl_cipherRows_length t.cipher k d q p _ fun _ h => h

theorem suiteTable_lawful (c : Cfg) (t : SuiteTable) : (suiteTable c t).Lawful c where
  dec_enc k d q p := by
    show ((cipherRows t.cipher k d q ((suiteTable c t).enc k d q p).length).reverse.foldl exchange _) = p
    rw [suiteTable_enc_length]
    exact foldl_exchange_reverse _ p
  enc_length := suiteTable_enc_length c t
  dec_length k d q p := foldl_cipherRows_length t.cipher k d q p _ fun _ h => List.mem_reverse.mp h
  resp_length := nonceValue_length t.resp c.verifLen
  initv_length := nonceValue_length t.initv c.verifLen
  kdfEnc_length := nonceValue_length t.kdfEnc c.keyLen
  kdfMac_length := nonceValue_length t.kdfMac c.keyLen
  mac_length := macValue_length t.mac c.tagLen

/-- Whatever suite a valid configuration names, it has the laws of R262 and R263. -/
theorem suiteOf_lawful {c : Cfg} (hcfg : c.valid) : (suiteOf c).Lawful c := by
  have ⟨_, _, _, _, _, _, _, _, _, _, _, href⟩ := hcfg
  unfold suiteOf
  split
  next hsuite =>
    obtain ⟨hkey, -, hverif, -, htag⟩ := href hsuite
    exact suiteRef_lawful hkey hverif htag
  next => exact suiteNull_lawful c
  next => exact suiteTable_lawful c _

/-- What SCUNWRAP deciphers is not longer than IBUF (30_encoding.md R112). -/
theorem sprCt_length_le (c : Cfg) (bytes : List Byte) : (sprCt c bytes).length ≤ bytes.length := by
  simp only [sprCt, slice_length]
  omega

end Sys2Proof.Machine

/-! # What an instruction answers -/

namespace Sys2Proof.Machine

/-! ## Outcomes that are a next state -/

/-- The outcome is a next state, and the next state has the property `P`. -/
def Yields (o : Host.Outcome State Fault Refusal) (P : State → Prop) : Prop := ∃ t, o = .next t ∧ P t

section
variable {P : State → Prop} {a b : Host.Outcome State Fault Refusal}

theorem Yields.next {t : State} (h : P t) : Yields (.next t) P := ⟨t, rfl, h⟩

/-- A check of a command: both branches are looked at, each knowing how the check went. -/
theorem Yields.ite {p : Prop} [Decidable p] (ha : p → Yields a P) (hb : ¬p → Yields b P) :
    Yields (if p then a else b) P := by
  split
  · exact ha ‹_›
  · exact hb ‹_›

theorem Yields.of_eq_next {t : State} (h : Yields a P) (ht : a = .next t) : P t := by
  obtain ⟨u, hu, hP⟩ := h
  cases hu.symm.trans ht
  exact hP

end

/-! ## What a command keeps, and what it answers -/

/-- What every command keeps before it answers: the configuration and EFLAGS as they are, `CTX < N_CTX`, and the
buffers within their capacities (10_state.md R20, R27, R28, R31 to R34). -/
structure Prepares (s u : State) : Prop where
  cfg : u.cfg = s.cfg
  eflags : u.eflags = s.eflags
  ctx : s.ctx.toNat < s.cfg.nCtx → u.ctx.toNat < s.cfg.nCtx
  wf : s.cfg.valid → Memory.wf s → Memory.wf u

namespace Prepares

variable {s u : State} {bytes : List Byte}

theorem refl (s : State) : Prepares s s := ⟨rfl, rfl, id, fun _ hwf => hwf⟩

theorem setContext (h : Prepares s u) (c : Context) : Prepares s (u.setContext c) := ⟨h.cfg, h.eflags, h.ctx, h.wf⟩

theorem afterDraw (h : Prepares s u) (n : Nat) : Prepares s (u.afterDraw n) := ⟨h.cfg, h.eflags, h.ctx, h.wf⟩

theorem setIbuf (h : Prepares s u) (hlen : s.cfg.valid → Memory.wf s → bytes.length ≤ s.cfg.bufSize) :
    Prepares s (u.setIbuf bytes) :=
  ⟨h.cfg, h.eflags, h.ctx, fun hv hwf => Memory.wf_setIbuf (h.wf hv hwf) (h.cfg ▸ hlen hv hwf)⟩

theorem setObuf (h : Prepares s u) (hlen : s.cfg.valid → Memory.wf s → bytes.length ≤ s.cfg.bufSize) :
    Prepares s (u.setObuf bytes) :=
  ⟨h.cfg, h.eflags, h.ctx, fun hv hwf => Memory.wf_setObuf (h.wf hv hwf) (h.cfg ▸ hlen hv hwf)⟩

theorem setRxbuf (h : Prepares s u) (hlen : Memory.wf s → bytes.length ≤ s.cfg.rxbufSize) :
    Prepares s (u.setRxbuf bytes) :=
  ⟨h.cfg, h.eflags, h.ctx, fun hv hwf => Memory.wf_setRxbuf (h.wf hv hwf) (h.cfg ▸ hlen hwf)⟩

theorem transmit (hroom : s.txRoom bytes.length) : Prepares s (s.transmit bytes) :=
  ⟨rfl, rfl, id, fun _ hwf => Memory.wf_transmit hwf hroom⟩

end Prepares

/-- The EFLAGS bits an instruction sets when it answers a status: those of the status's class, and SC when SCTMO
answers OK (10_state.md R28, 43_secure_handshake.md R226). -/
def flagsOf : Instr → Status → Byte
  | .sctmo, .ok => flagSc
  | _, st => st.flag

theorem flagsOf_of_ne_ok (i : Instr) {st : Status} (h : st ≠ .ok) : flagsOf i st = st.flag := by
  unfold flagsOf
  split
  · exact absurd rfl h
  · rfl

theorem flagsOf_of_ne_sctmo {i : Instr} (h : i ≠ .sctmo) (st : Status) : flagsOf i st = st.flag := by
  unfold flagsOf
  split
  · exact absurd rfl h
  · rfl

/-- The bits of `flagsOf`, read off the status code (10_state.md R28). -/
theorem flagsOf_eq (i : Instr) (st : Status) : flagsOf i st =
    if st.code = 0x10#8 then 0x01#8 else if st.code = 0x11#8 then 0x02#8 else if st.code = 0x12#8 then 0x04#8
    else if st.code >>> 4 = 0x02#8 ∨ (i = .sctmo ∧ st.code = 0x00#8) then 0x08#8
    else if st.code >>> 4 = 0x03#8 then 0x10#8 else 0x00#8 := by
  by_cases h : i = .sctmo
  · subst h
    cases st <;> rfl
  · rw [flagsOf_of_ne_sctmo h]
    cases st <;> simp [h, Status.code, Status.flag, flagSc, flagCmd]

/-- The reserved EFLAGS bits are set by nothing (10_state.md R28). -/
theorem flagsOf_reserved (i : Instr) (st : Status) : flagsOf i st &&& 0xE0#8 = 0#8 := by
  unfold flagsOf
  split
  · decide
  · exact st.flag_reserved

/-- What an instruction that answers has done: what it keeps, and the flags that go with the status of its response. -/
structure Answers (i : Instr) (s t : State) : Prop where
  cfg : t.cfg = s.cfg
  ctx : s.ctx.toNat < s.cfg.nCtx → t.ctx.toNat < s.cfg.nCtx
  wf : s.cfg.valid → Memory.wf s → Memory.wf t
  answer : ∃ (st : Status) (data : Byte),
    t.env.resp = some (st.code ++ data) ∧ t.eflags = s.eflags ||| flagsOf i st

section
variable {i : Instr} {s u : State}

theorem Answers.respond {st : Status} {data : Byte} (hst : flagsOf i st = 0#8) (h : Prepares s u) :
    Answers i s (u.respond st data) :=
  ⟨h.cfg, h.ctx, h.wf, st, data, rfl, by rw [hst, BitVec.or_zero]; exact h.eflags⟩

/-- Answering OK sets no flag, SCTMO alone excepted. -/
theorem Answers.ok {data : Byte} (hi : i ≠ .sctmo) (h : Prepares s u) : Answers i s (u.ok data) :=
  .respond (flagsOf_of_ne_sctmo hi .ok) h

/-- Raising a status sets the flag of its class (60_exceptions.md R356). -/
theorem Answers.raise {st : Status} (hst : st ≠ .ok) (h : Prepares s u) : Answers i s (u.raise st) :=
  ⟨h.cfg, h.ctx, h.wf, st, 0#8, rfl, by rw [flagsOf_of_ne_ok i hst, State.raise_eflags, h.eflags]⟩

end

/-! ## Every command but CLRFLAGS and RESET -/

section
variable (s : State)

theorem execPush_answers (imm : Byte) : Yields (execPush imm s) (Answers (.push imm) s) := by
  refine .next ?_
  have hwf : Memory.wf s → Memory.wf (s.pushByte imm) := fun h => Memory.wf_pushByte h imm
  obtain ⟨-, e⟩ | ⟨-, e⟩ := s.pushByte_cases imm <;> rw [e] at hwf ⊢
  · exact .raise nofun (.refl s)
  · exact .ok nofun ⟨rfl, rfl, id, fun _ => hwf⟩

/-- POP advances OPTR, or finds nothing to read. -/
theorem execPop_answers : Yields (execPop s) (Answers .pop s) := by
  unfold execPop
  split
  next => exact .next (.raise nofun (.refl s))
  next hd => exact .next (.ok nofun ⟨rfl, rfl, id, fun _ hwf => Memory.wf_pop hwf hd⟩)

theorem execEncode_answers : Yields (execEncode s) (Answers .encode s) :=
  .ite (fun _ => .next (.raise nofun (.refl s))) fun _ =>
  .ite (fun hroom => .next (.ok nofun (.transmit (by rwa [encodeFrame_length])))) fun _ =>
  .next (.raise nofun (.refl s))

/-- DECODE leaves a tail of RXBUF, and delivers a payload that was part of it. -/
theorem execDecode_answers : Yields (execDecode s) (Answers .decode s) := by
  have hlen := parseFrame_lengths s.cfg s.rxbuf
  unfold execDecode
  cases hp : parseFrame s.cfg s.rxbuf with
  | needMore => exact .next (.respond rfl (.refl s))
  | badStart left | badLength left | badTrailer left =>
    rw [hp] at hlen
    exact .next (.raise nofun ((Prepares.refl s).setRxbuf fun ⟨_, _, _, hrx, _⟩ => hlen.trans hrx))
  | frame addr ctrl payload left =>
    rw [hp] at hlen
    obtain ⟨hleft, hpayload⟩ := hlen
    have hheader : Prepares s { s with rxaddr := addr, rxctrl := ctrl } := ⟨rfl, rfl, id, fun _ hwf => hwf⟩
    have hrest := hheader.setRxbuf fun ⟨_, _, _, hrx, _⟩ => hleft.trans hrx
    exact .next (.ok nofun (hrest.setObuf fun _ _ => hpayload))

theorem execScsel_answers (imm : Byte) : Yields (execScsel imm s) (Answers (.scsel imm) s) :=
  .ite (fun _ => .next (.raise nofun (.refl s))) fun hlt =>
  .next (.ok nofun ⟨rfl, rfl, fun _ => Nat.lt_of_not_le hlt, fun _ hwf => hwf⟩)

theorem execSckey_answers : Yields (execSckey s) (Answers .sckey s) :=
  .ite (fun _ => .next (.raise nofun (.refl s))) fun _ =>
  .ite (fun _ => .next (.raise nofun (.refl s))) fun _ =>
  .next (.ok nofun (((Prepares.refl s).setContext _).setIbuf fun _ _ => Nat.zero_le _))

theorem execScinit_answers : Yields (execScinit s) (Answers .scinit s) :=
  .ite (fun _ => .next (.raise nofun (.refl s))) fun _ =>
  .ite (fun _ => .next (.raise nofun (.refl s))) fun _ =>
  .next <| .ok nofun <| (((Prepares.refl s).afterDraw _).setContext _).setObuf fun hv _ => by
    simp only [State.drawn_length]; omega

theorem execScchal_answers : Yields (execScchal s) (Answers .scchal s) :=
  .ite (fun _ => .next (.raise nofun (.refl s))) fun _ =>
  .ite (fun _ => .next (.raise nofun (.refl s))) fun _ =>
  .ite (fun _ => .next (.raise nofun (.refl s))) fun _ =>
  .next <| .ok nofun <| (((Prepares.refl s).afterDraw _).setContext _).setObuf fun hv _ => by
    simp only [List.length_append, State.drawn_length, State.suite, (suiteOf_lawful hv).resp_length]; omega

theorem execScvrfy_answers : Yields (execScvrfy s) (Answers .scvrfy s) :=
  .ite (fun _ => .next (.raise nofun (.refl s))) fun _ =>
  .ite (fun _ => .next (.raise nofun (.refl s))) fun _ =>
  .ite (fun _ => .next (.raise nofun ((Prepares.refl s).setContext _))) fun _ =>
  .next <| .ok nofun <| ((Prepares.refl s).setContext _).setObuf fun hv _ => by
    simp only [State.suite, (suiteOf_lawful hv).initv_length]; omega

theorem execScrvfy_answers : Yields (execScrvfy s) (Answers .scrvfy s) :=
  .ite (fun _ => .next (.raise nofun (.refl s))) fun _ =>
  .ite (fun _ => .next (.raise nofun (.refl s))) fun _ =>
  .ite (fun _ => .next (.raise nofun ((Prepares.refl s).setContext _))) fun _ =>
  .next (.ok nofun ((Prepares.refl s).setContext _))

theorem execScfin_answers (imm : Byte) : Yields (execScfin imm s) (Answers (.scfin imm) s) :=
  .ite (fun _ => .next (.raise nofun (.refl s))) fun _ =>
  .ite (fun _ => .next (.ok nofun ((Prepares.refl s).setContext _))) fun _ =>
  .next (.raise nofun ((Prepares.refl s).setContext _))

/-- The one command that answers OK and sets a flag (43_secure_handshake.md R226). -/
theorem execSctmo_answers : Yields (execSctmo s) (Answers .sctmo s) :=
  .ite (fun _ => .next (.raise nofun (.refl s))) fun _ =>
  .next ⟨rfl, id, fun _ hwf => hwf, .ok, 0#8, rfl, rfl⟩

theorem execScretry_answers : Yields (execScretry s) (Answers .scretry s) :=
  .ite (fun _ => .next (.raise nofun (.refl s))) fun _ =>
  .next (.ok nofun ((Prepares.refl s).setContext _))

theorem execScwrap_answers : Yields (execScwrap s) (Answers .scwrap s) :=
  .ite (fun _ => .next (.raise nofun (.refl s))) fun _ =>
  .ite (fun _ => .next (.raise nofun (.refl s))) fun hroom =>
  .ite (fun _ => .next (.raise nofun (.refl s))) fun _ =>
  .next <| .ok nofun <| ((Prepares.refl s).setContext _).setObuf fun hv _ => by
    simp only [sprBytes_length, State.suite, (suiteOf_lawful hv).enc_length, (suiteOf_lawful hv).mac_length]
    simp only [State.ilen, secOvh, Cfg.seqLen] at hroom
    omega

/-- A failed check is `sc_fail` and a raise; a message that is released was no longer than IBUF. -/
theorem execScunwrap_answers : Yields (execScunwrap s) (Answers .scunwrap s) :=
  have hfail {st : Status} (hst : st ≠ .ok) : Yields (.next (s.unwrapFail st)) (Answers .scunwrap s) :=
    .next (.raise hst ((Prepares.refl s).setContext _))
  .ite (fun _ => .next (.raise nofun (.refl s))) fun _ =>
  .ite (fun _ => hfail nofun) fun _ =>
  .ite (fun _ => hfail nofun) fun _ =>
  .ite (fun _ => hfail nofun) fun _ =>
  .next <| .ok nofun <| ((Prepares.refl s).setContext _).setObuf fun hv ⟨hibuf, _⟩ => by
    simp only [State.suite, (suiteOf_lawful hv).dec_length]
    exact (sprCt_length_le _ _).trans hibuf

theorem execScadmit_answers : Yields (execScadmit s) (Answers .scadmit s) :=
  .ite (fun _ => .next (.raise nofun (.refl s))) fun _ =>
  .next (.ok nofun (.refl s))

/-- The bytes of a region go to IBUF, as many as have room. -/
theorem execSpr_answers (seq : Word32) (ct tag : List Byte) :
    Yields (execSpr seq ct tag s) (Answers (.spr seq ct tag) s) := by
  refine .next ?_
  obtain hle | hgt := le_or_gt (sprBytes seq ct tag).length s.cfg.maxFrameLen
  · rw [s.load_of_le _ hle]
    exact .ok nofun ((Prepares.refl s).setIbuf fun _ _ => hle)
  · rw [s.load_of_gt _ hgt]
    exact .raise nofun ((Prepares.refl s).setIbuf fun _ _ => List.length_take_le ..)

end

/-- Every instruction but the frame rows, CLRFLAGS and RESET answers. -/
theorem exec_answers (s : State) {i : Instr} (hck : ∀ a k p, i ≠ .frameCk a k p)
    (hcrc : ∀ a k p, i ≠ .frameCrc a k p) (hclr : i ≠ .clrflags) (hreset : i ≠ .reset) :
    Yields (exec i s) (Answers i s) := by
  cases i with
  | clrflags => exact absurd rfl hclr
  | reset => exact absurd rfl hreset
  | frameCk a k p => exact absurd rfl (hck a k p)
  | frameCrc a k p => exact absurd rfl (hcrc a k p)
  | nop | rdflags | olenl | olenh | getaddr | getctrl | fstat | cksget | crcgetl | crcgeth | scstat | scfails =>
    exact .next (.ok nofun (.refl s))
  | setaddr | setctrl | cksinit | cksupd | crcinit | crcupd | cksbuf | crcbuf =>
    exact .next (.ok nofun ⟨rfl, rfl, id, fun _ hwf => hwf⟩)
  | iclr => exact .next (.ok nofun ((Prepares.refl s).setIbuf fun _ _ => Nat.zero_le _))
  | xfer => exact .next (.ok nofun ((Prepares.refl s).setIbuf fun _ ⟨_, hobuf, _⟩ => hobuf))
  | orew =>
    exact .next (.ok nofun ⟨rfl, rfl, id, fun _ ⟨hibuf, hobuf, _, hqueues⟩ =>
      ⟨hibuf, hobuf, Nat.zero_le _, hqueues⟩⟩)
  | rxflush => exact .next (.ok nofun ((Prepares.refl s).setRxbuf fun _ => Nat.zero_le _))
  | scclr => exact .next (.ok nofun ((Prepares.refl s).setContext _))
  | push imm => exact execPush_answers s imm
  | pop => exact execPop_answers s
  | encode => exact execEncode_answers s
  | decode => exact execDecode_answers s
  | scsel imm => exact execScsel_answers s imm
  | sckey => exact execSckey_answers s
  | scinit => exact execScinit_answers s
  | scchal => exact execScchal_answers s
  | scvrfy => exact execScvrfy_answers s
  | scrvfy => exact execScrvfy_answers s
  | scfin imm => exact execScfin_answers s imm
  | sctmo => exact execSctmo_answers s
  | scretry => exact execScretry_answers s
  | scwrap => exact execScwrap_answers s
  | scunwrap => exact execScunwrap_answers s
  | scadmit => exact execScadmit_answers s
  | spr seq ct tag => exact execSpr_answers s seq ct tag

/-- What an instruction that answers a next state has done: RESET, CLRFLAGS and the frame rows each on its own; every
other instruction answers. -/
theorem exec_next_cases {i : Instr} {s t : State} (h : exec i s = .next t) :
    (i = .reset ∧ t = s.resetBlock.ok 0#8) ∨ (i = .clrflags ∧ t = State.ok 0#8 { s with eflags := 0#8 }) ∨
    (∃ bytes, s.rxSteps bytes = .next t) ∨ Answers i s t := by
  by_cases hreset : i = .reset
  · subst hreset; cases h; exact .inl ⟨rfl, rfl⟩
  by_cases hclr : i = .clrflags
  · subst hclr; cases h; exact .inr (.inl ⟨rfl, rfl⟩)
  by_cases hck : ∃ a k p, i = .frameCk a k p
  · obtain ⟨a, k, p, rfl⟩ := hck
    exact .inr (.inr (.inl ⟨_, h⟩))
  by_cases hcrc : ∃ a k p, i = .frameCrc a k p
  · obtain ⟨a, k, p, rfl⟩ := hcrc
    exact .inr (.inr (.inl ⟨_, h⟩))
  push Not at hck hcrc
  exact .inr (.inr (.inr ((exec_answers s hck hcrc hclr hreset).of_eq_next h)))

end Sys2Proof.Machine

/-! # What an instruction keeps (10_state.md R20, R27, R28, R31 to R34) -/

namespace Sys2Proof.Machine

section
variable {i : Instr} {s t : State}

theorem exec_cfg (h : exec i s = .next t) : t.cfg = s.cfg := by
  obtain ⟨-, rfl⟩ | ⟨-, rfl⟩ | ⟨bytes, hrx⟩ | hans := exec_next_cases h
  · rfl
  · rfl
  · obtain ⟨-, rfl⟩ := State.rxSteps_next hrx
    rfl
  · exact hans.cfg

theorem exec_ctx_lt (h : exec i s = .next t) (hctx : s.ctx.toNat < s.cfg.nCtx) : t.ctx.toNat < s.cfg.nCtx := by
  obtain ⟨-, rfl⟩ | ⟨-, rfl⟩ | ⟨bytes, hrx⟩ | hans := exec_next_cases h
  · exact Nat.zero_lt_of_lt hctx
  · exact hctx
  · obtain ⟨-, rfl⟩ := State.rxSteps_next hrx
    exact hctx
  · exact hans.ctx hctx

theorem exec_wf (h : exec i s = .next t) (hcfg : s.cfg.valid) (hwf : Memory.wf s) : Memory.wf t := by
  obtain ⟨-, rfl⟩ | ⟨-, rfl⟩ | ⟨bytes, hrx⟩ | hans := exec_next_cases h
  · exact Memory.wf_resetBlock s
  · exact hwf
  · exact Memory.wf_rxSteps hwf hrx
  · exact hans.wf hcfg hwf

/-- EFLAGS is cleared by RESET or CLRFLAGS, or gains flags, none of them reserved (10_state.md R28). -/
theorem exec_eflags (h : exec i s = .next t) :
    ((i = .reset ∨ i = .clrflags) ∧ t.eflags = 0#8) ∨
    ∃ bits : Byte, t.eflags = s.eflags ||| bits ∧ bits &&& 0xE0#8 = 0#8 := by
  obtain ⟨hi, rfl⟩ | ⟨hi, rfl⟩ | ⟨bytes, hrx⟩ | hans := exec_next_cases h
  · exact .inl ⟨.inl hi, rfl⟩
  · exact .inl ⟨.inr hi, rfl⟩
  · obtain ⟨-, rfl⟩ := State.rxSteps_next hrx
    exact .inr ⟨0#8, BitVec.or_zero.symm, rfl⟩
  · obtain ⟨st, -, -, hflags⟩ := hans.answer
    exact .inr ⟨_, hflags, flagsOf_reserved i st⟩

end

/-- Setting flags that are not reserved leaves the reserved ones 0. -/
theorem or_reserved {x bits : Byte} (hx : x &&& 0xE0#8 = 0#8) (hbits : bits &&& 0xE0#8 = 0#8) :
    (x ||| bits) &&& 0xE0#8 = 0#8 := by
  rw [BitVec.and_comm, BitVec.and_or_distrib_left, BitVec.and_comm, hx, BitVec.and_comm, hbits, BitVec.or_zero]

theorem exec_eflags_reserved {i : Instr} {s t : State} (h : exec i s = .next t) (hs : s.eflags &&& 0xE0#8 = 0#8) :
    t.eflags &&& 0xE0#8 = 0#8 := by
  obtain ⟨-, ht⟩ | ⟨bits, ht, hbits⟩ := exec_eflags h <;> rw [ht]
  · rfl
  · exact or_reserved hs hbits

/-! ## The contexts -/

section
variable {cfg : Cfg} {c : Context}

/-- A nonce of the right length goes in at any time. -/
theorem Context.inv_setNb {nb : List Byte} (hc : c.inv cfg) (hlen : nb.length = cfg.nonceLen) :
    Context.inv cfg { c with nb := nb } := by
  obtain ⟨hphase, hvalid, hkeys, hfails, hinit, hresp, hpsk, hna, -, hsession⟩ := hc
  exact ⟨hphase, hvalid, hkeys, hfails, hinit, hresp, hpsk, hna, hlen, hsession⟩

/-- A context that fails before it is Active has no keys to erase (43_secure_handshake.md R219). -/
theorem Context.inv_negFail (hc : c.inv cfg) (hstate : c.state ≠ .active) : Context.inv cfg c.negFail := by
  obtain ⟨-, -, hkeys, -, -, -, hsized⟩ := hc
  exact ⟨by simp, by simp, fun _ => hkeys hstate, by simp, by simp, by simp, hsized⟩

/-- Activation derives keys of the right lengths, and the limit of failures is not 0 (43_secure_handshake.md R224). -/
theorem Context.inv_activate {S : Suite} (hc : c.inv cfg) (hS : S.Lawful cfg) (hlimit : 1 ≤ cfg.scFailLimit)
    (hstate : c.state = .negotiating) : Context.inv cfg (c.activate S) := by
  obtain ⟨-, hvalid, -, -, -, -, hpsk, hna, hnb, -, -⟩ := hc
  exact ⟨by simp, fun _ => hvalid (.inl hstate), by simp, fun _ => hlimit, by simp, by simp, hpsk, hna, hnb,
    hS.kdfEnc_length .., hS.kdfMac_length ..⟩

/-- SCRETRY erases the session (43_secure_handshake.md R227, R228). -/
theorem Context.inv_retry (hc : c.inv cfg) : Context.inv cfg { c.clearSession cfg with state := .inactive } := by
  obtain ⟨-, -, -, -, -, -, hpsk, -⟩ := hc
  simp [Context.inv, Context.sized, hpsk]

/-- A counted failure stays below the limit, or the context fails and loses its keys (44_secure_transport.md R246). -/
theorem Context.inv_scFail (hc : c.inv cfg) : Context.inv cfg (c.scFail cfg) := by
  obtain ⟨hphase, hvalid, hkeys, -, hinit, hresp, hsized⟩ := hc
  obtain ⟨hlt, e⟩ | ⟨-, e⟩ := c.scFail_cases cfg <;> rw [e]
  · exact ⟨hphase, hvalid, hkeys, fun _ => hlt, hinit, hresp, hsized⟩
  · obtain ⟨hpsk, hna, hnb, -⟩ := hsized
    simp [Context.inv, Context.sized, hpsk, hna, hnb]

end

/-- Each way of writing the selected context keeps 10_state.md R50. -/
theorem ContextStep.inv {s : State} {c d : Context} {i : Instr} (h : ContextStep s c i d) (hcfg : s.cfg.valid)
    (hc : c.inv s.cfg) : d.inv s.cfg := by
  have hlaw : s.suite.Lawful s.cfg := suiteOf_lawful hcfg
  have ⟨_, _, _, _, _, _, _, _, hlimit, _⟩ := hcfg
  have ⟨hphase, hvalid, hkeys, hfails, hinit, hresp, hpsk, hna, hnb, hkenc, hkmac⟩ := hc
  cases h with
  | sckey _ hlen => exact ⟨hphase, fun _ => rfl, hkeys, hfails, hinit, hresp, hlen, hna, hnb, hkenc, hkmac⟩
  | scclr => exact Context.inv_reset s.cfg
  | scinit hstate hpskValid =>
    exact ⟨by simp, fun _ => hpskValid, fun _ => hkeys (by simp [hstate]), by simp, by simp, by simp,
      hpsk, State.drawn_length .., hnb, hkenc, hkmac⟩
  | scchal hstate hpskValid hlen =>
    exact ⟨by simp, fun _ => hpskValid, fun _ => hkeys (by simp [hstate]), by simp, by simp, by simp,
      hpsk, hlen, State.drawn_length .., hkenc, hkmac⟩
  | scvrfyFail hwaits hlen =>
    obtain ⟨hstate, -, -⟩ := hwaits
    have hnonce : (s.ibuf.take s.cfg.nonceLen).length = s.cfg.nonceLen := by rw [List.length_take]; omega
    exact Context.inv_negFail (Context.inv_setNb hc hnonce) (by simp [hstate])
  | scvrfy hwaits hlen =>
    obtain ⟨hstate, hrole, -⟩ := hwaits
    have hnonce : (s.ibuf.take s.cfg.nonceLen).length = s.cfg.nonceLen := by rw [List.length_take]; omega
    exact ⟨by simp [hstate], hvalid, hkeys, hfails, fun _ => hrole, by simp, hpsk, hna, hnonce, hkenc, hkmac⟩
  | scrvfyFail hwaits => exact Context.inv_negFail hc (by simp [hwaits])
  | scrvfy hwaits => exact Context.inv_activate hc hlaw hlimit hwaits.1
  | scfinFail imm hwaits => exact Context.inv_negFail hc (by simp [hwaits])
  | scfin imm hwaits => exact Context.inv_activate hc hlaw hlimit hwaits.1
  | sctmo hstate => exact Context.inv_negFail hc (by simp [hstate])
  | scretry => exact Context.inv_retry hc
  | scwrap => exact hc
  | scunwrapFail => exact Context.inv_scFail hc
  | scunwrap => exact ⟨hphase, hvalid, hkeys, fun _ => hlimit, hinit, hresp, hpsk, hna, hnb, hkenc, hkmac⟩

/-- What `State.context` reads is a context of the block, or the reset value, so it meets 10_state.md R50. -/
theorem State.inv_context {s : State} (h : ∀ c ∈ s.sc, c.inv s.cfg) : s.context.inv s.cfg := by
  by_cases hlt : s.ctx.toNat < s.sc.length
  · rw [State.context, List.getD_eq_getElem _ _ hlt]
    exact h _ (List.getElem_mem hlt)
  · rw [State.context, List.getD_eq_default _ _ (Nat.le_of_not_lt hlt)]
    exact Context.inv_reset s.cfg

/-! ## The invariant, instruction by instruction -/

theorem exec_inv {i : Instr} {s t : State} (h : exec i s = .next t) (hs : s.inv) : t.inv := by
  obtain ⟨hcfg, hwf, hctx, hlen, hflags, hsc⟩ := hs
  have ht : t.cfg = s.cfg := exec_cfg h
  obtain ⟨htlen, htsc⟩ : t.sc.length = s.cfg.nCtx ∧ ∀ c ∈ t.sc, c.inv s.cfg := by
    obtain e | ⟨-, e⟩ | ⟨d, hd, e⟩ := exec_contexts h <;> rw [e]
    · exact ⟨hlen, hsc⟩
    · refine ⟨List.length_replicate, fun c hc => ?_⟩
      obtain rfl := List.eq_of_mem_replicate hc
      exact Context.inv_reset s.cfg
    · refine ⟨by rw [List.length_set, hlen], fun c hc => ?_⟩
      obtain hmem | rfl := List.mem_or_eq_of_mem_set hc
      · exact hsc c hmem
      · exact hd.inv hcfg (State.inv_context hsc)
  unfold State.inv
  rw [ht]
  exact ⟨hcfg, exec_wf h hcfg hwf, exec_ctx_lt h hctx, htlen, exec_eflags_reserved h hflags, htsc⟩

end Sys2Proof.Machine

/-! # Every step of every agent (10_state.md R20, R50) -/

namespace Sys2Proof.Machine

/-- What a step that answers a next state has done, agent by agent; with no event left it has done nothing. -/
theorem step_next_cases {s t : State} (h : step s = .next t) :
    t = s ∨ (∃ i, exec i s.dropEvent = .next t) ∨ (∃ e, s.dropEvent.undecoded e = .next t) ∨
    (∃ b, s.dropEvent.rxSteps [b] = .next t) ∨ s.dropEvent.txStep = .next t ∨ t = s.dropEvent.hardwareReset := by
  unfold step at h
  split at h
  next => cases h; exact .inl rfl
  next e _ =>
    unfold stepItem at h
    split at h
    · exact .inr (.inl ⟨_, h⟩)
    · exact .inr (.inr (.inl ⟨_, h⟩))
  next b _ => exact .inr (.inr (.inr (.inl ⟨b, h⟩)))
  next => exact .inr (.inr (.inr (.inr (.inl h))))
  next => cases h; exact .inr (.inr (.inr (.inr (.inr rfl))))

section
variable {s t : State}

theorem State.undecoded_cfg {e : Encoded} (h : s.undecoded e = .next t) : t.cfg = s.cfg := by
  obtain ⟨_, -, rfl⟩ | ⟨_, -, -, rfl⟩ | ⟨bytes, -, rfl⟩ := State.undecoded_next h
  · rfl
  · rfl
  · obtain ⟨_, _, _, e, -⟩ := s.load_spec bytes
    rw [e]

theorem State.inv_rxSteps {bytes : List Byte} (hs : s.inv) (h : s.rxSteps bytes = .next t) : t.inv := by
  obtain ⟨hcfg, hwf, hrest⟩ := hs
  have hwft := Memory.wf_rxSteps hwf h
  obtain ⟨-, rfl⟩ := State.rxSteps_next h
  exact ⟨hcfg, hwft, hrest⟩

theorem State.inv_txStep (hs : s.inv) (h : s.txStep = .next t) : t.inv := by
  obtain ⟨hcfg, hwf, hrest⟩ := hs
  have hwft := Memory.wf_txStep hwf h
  obtain ⟨_, _, -, rfl⟩ := State.txStep_next h
  exact ⟨hcfg, hwft, hrest⟩

theorem State.inv_undecoded {e : Encoded} (hs : s.inv) (h : s.undecoded e = .next t) : t.inv := by
  obtain ⟨hcfg, hwf, hctx, hlen, hflags, hsc⟩ := hs
  have hwft := Memory.wf_undecoded hwf h
  obtain ⟨_, -, rfl⟩ | ⟨_, -, -, rfl⟩ | ⟨bytes, -, rfl⟩ := State.undecoded_next h
  · exact ⟨hcfg, hwft, hctx, hlen, or_reserved hflags (Status.flag_reserved _), hsc⟩
  · exact ⟨hcfg, hwft, hctx, hlen, hflags, hsc⟩
  · obtain ⟨_, _, _, e, -, -, hres⟩ := s.load_spec bytes
    rw [e] at hwft ⊢
    exact ⟨hcfg, hwft, hctx, hlen, hres hflags, hsc⟩

end

/-- Settles O55: no agent's step writes the configuration. -/
theorem noStepChangesTheConfiguration : Obligations.NoStepChangesTheConfiguration := by
  unfold Obligations.NoStepChangesTheConfiguration
  intro s t h
  obtain rfl | ⟨i, hi⟩ | ⟨e, he⟩ | ⟨b, hb⟩ | htx | rfl := step_next_cases h
  · rfl
  · exact (exec_cfg hi).trans s.dropEvent_cfg
  · exact (State.undecoded_cfg he).trans s.dropEvent_cfg
  · obtain ⟨-, rfl⟩ := State.rxSteps_next hb
    rfl
  · obtain ⟨_, _, -, rfl⟩ := State.txStep_next htx
    rfl
  · rfl

/-- Settles O54: an instruction keeps the invariant (`exec_inv`), and so does each of the other agents. -/
theorem everyStepKeepsInvariant : Obligations.EveryStepKeepsInvariant := by
  unfold Obligations.EveryStepKeepsInvariant
  intro s t hs h
  have hdrop : s.dropEvent.inv := hs
  obtain rfl | ⟨i, hi⟩ | ⟨e, he⟩ | ⟨b, hb⟩ | htx | rfl := step_next_cases h
  · exact hs
  · exact exec_inv hi hdrop
  · exact State.inv_undecoded hdrop he
  · exact State.inv_rxSteps hdrop hb
  · exact State.inv_txStep hdrop htx
  · exact State.inv_resetBlock (s := s.dropEvent) hdrop.1

end Sys2Proof.Machine

/-! # What an instruction does not look at (10_state.md R28, R52) -/

namespace Sys2Proof.Machine

/-- A change of the list of contexts that the context at index `n` does not see: it is read the same, and writing it
commutes with the change. -/
structure BlindTo (n : Nat) (g : List Context → List Context) : Prop where
  getElem? : ∀ l, (g l)[n]? = l[n]?
  set : ∀ l c, g (l.set n c) = (g l).set n c

theorem blindTo_set {n k : Nat} (h : k ≠ n) (x : Context) : BlindTo n (·.set k x) where
  getElem? _ := List.getElem?_set_ne h
  set _ _ := List.set_comm _ _ h.symm

theorem blindTo_id (n : Nat) : BlindTo n id := ⟨fun _ => rfl, fun _ _ => rfl⟩

/-- The state with the contexts changed by `g` and the EFLAGS bits `e` set. -/
def State.overlay (g : List Context → List Context) (e : Byte) (s : State) : State :=
  { s with sc := g s.sc, eflags := s.eflags ||| e }

section
variable (g : List Context → List Context) (e : Byte) (s : State)

/-! ## What reads the same under an overlay -/

@[simp] theorem State.overlay_cfg : (s.overlay g e).cfg = s.cfg := rfl
@[simp] theorem State.overlay_txaddr : (s.overlay g e).txaddr = s.txaddr := rfl
@[simp] theorem State.overlay_txctrl : (s.overlay g e).txctrl = s.txctrl := rfl
@[simp] theorem State.overlay_rxaddr : (s.overlay g e).rxaddr = s.rxaddr := rfl
@[simp] theorem State.overlay_rxctrl : (s.overlay g e).rxctrl = s.rxctrl := rfl
@[simp] theorem State.overlay_ctx : (s.overlay g e).ctx = s.ctx := rfl
@[simp] theorem State.overlay_ibuf : (s.overlay g e).ibuf = s.ibuf := rfl
@[simp] theorem State.overlay_ilen : (s.overlay g e).ilen = s.ilen := rfl
@[simp] theorem State.overlay_rxbuf : (s.overlay g e).rxbuf = s.rxbuf := rfl
@[simp] theorem State.overlay_txfifo : (s.overlay g e).txfifo = s.txfifo := rfl
@[simp] theorem State.overlay_suite : (s.overlay g e).suite = s.suite := rfl
@[simp] theorem State.overlay_drawn (n : Nat) : (s.overlay g e).drawn n = s.drawn n := rfl
@[simp] theorem State.overlay_popByte : (s.overlay g e).popByte = s.popByte := rfl

/-! ## What is written the same under an overlay -/

@[simp] theorem State.overlay_respond (st : Status) (d : Byte) :
    (s.overlay g e).respond st d = (s.respond st d).overlay g e := rfl
@[simp] theorem State.overlay_ok (d : Byte) : (s.overlay g e).ok d = (s.ok d).overlay g e := rfl
@[simp] theorem State.overlay_afterDraw (n : Nat) : (s.overlay g e).afterDraw n = (s.afterDraw n).overlay g e := rfl
@[simp] theorem State.overlay_setIbuf (x : List Byte) : (s.overlay g e).setIbuf x = (s.setIbuf x).overlay g e := rfl
@[simp] theorem State.overlay_setObuf (x : List Byte) : (s.overlay g e).setObuf x = (s.setObuf x).overlay g e := rfl
@[simp] theorem State.overlay_setRxbuf (x : List Byte) : (s.overlay g e).setRxbuf x = (s.setRxbuf x).overlay g e := rfl
@[simp] theorem State.overlay_receive (x : List Byte) : (s.overlay g e).receive x = (s.receive x).overlay g e := rfl
@[simp] theorem State.overlay_transmit (x : List Byte) : (s.overlay g e).transmit x = (s.transmit x).overlay g e := rfl

/-- Setting flags on top of flags: the order does not matter (10_state.md R28, sticky). -/
@[simp] theorem State.overlay_setFlags (b : Byte) : (s.overlay g e).setFlags b = (s.setFlags b).overlay g e := by
  simp only [State.setFlags, State.overlay, BitVec.or_assoc, BitVec.or_comm e b]

@[simp] theorem State.overlay_raise (st : Status) : (s.overlay g e).raise st = (s.raise st).overlay g e := by
  rw [State.raise, State.overlay_setFlags, State.overlay_respond, State.raise]

theorem State.overlay_pushByte (b : Byte) : (s.overlay g e).pushByte b = (s.pushByte b).overlay g e := by
  simp [State.pushByte, State.ibufFull, apply_ite (State.overlay g e)]

@[simp] theorem State.overlay_load (bytes : List Byte) : (s.overlay g e).load bytes = (s.load bytes).overlay g e := by
  have hpush (t : State) : bytes.foldl (fun t b => t.pushByte b) (t.overlay g e) =
      (bytes.foldl (fun t b => t.pushByte b) t).overlay g e := by
    induction bytes generalizing t with
    | nil => rfl
    | cons b bytes ih => rw [List.foldl_cons, State.overlay_pushByte, ih, List.foldl_cons]
  exact hpush s.clearIbuf

/-! ## What an instruction does under an overlay -/

@[simp] theorem mapNext_next (f : State → State) : mapNext f (.next s) = .next (f s) := rfl

@[simp] theorem mapNext_fault (f : State → State) (r : Fault) : mapNext f (.fault r) = .fault r := rfl

@[simp] theorem mapNext_ite (f : State → State) (p : Prop) [Decidable p] (a b : Host.Outcome State Fault Refusal) :
    mapNext f (if p then a else b) = if p then mapNext f a else mapNext f b := apply_ite ..

theorem State.overlay_rxSteps (bytes : List Byte) :
    (s.overlay g e).rxSteps bytes = mapNext (State.overlay g e) (s.rxSteps bytes) := by
  simp [State.rxSteps]

theorem execPop_overlay : execPop (s.overlay g e) = mapNext (State.overlay g e) (execPop s) := by
  unfold execPop
  rw [State.overlay_popByte]
  split
  · exact congrArg Host.Outcome.next (s.overlay_raise g e .underflow)
  · rfl

theorem execDecode_overlay : execDecode (s.overlay g e) = mapNext (State.overlay g e) (execDecode s) := by
  unfold execDecode
  rw [State.overlay_cfg, State.overlay_rxbuf]
  cases parseFrame s.cfg s.rxbuf with
  | needMore | frame => rfl
  | badStart | badLength | badTrailer => simp

variable {g s} (hg : BlindTo s.ctx.toNat g)
include hg

theorem State.overlay_context : (s.overlay g e).context = s.context := by
  simp only [State.context, List.getD_eq_getElem?_getD, State.overlay, hg.getElem?]

theorem State.overlay_setContext (c : Context) : (s.overlay g e).setContext c = (s.setContext c).overlay g e := by
  simp only [State.setContext, State.overlay, hg.set]

/-- An instruction that reads no flags and clears none, and does not reset the contexts, does the same on top of an
overlay. -/
theorem exec_overlay {i : Instr} (hreset : i ≠ .reset) (hrd : i ≠ .rdflags) (hclr : i ≠ .clrflags) :
    exec i (s.overlay g e) = mapNext (State.overlay g e) (exec i s) := by
  have hread := State.overlay_context e hg
  have hwrite := State.overlay_setContext e hg
  have hwriteDrawn (n : Nat) := State.overlay_setContext (s := s.afterDraw n) e hg
  cases i with
  | reset => exact absurd rfl hreset
  | rdflags => exact absurd rfl hrd
  | clrflags => exact absurd rfl hclr
  | nop | iclr | olenl | olenh | xfer | orew | setaddr | setctrl | getaddr | getctrl | rxflush | fstat | cksinit
  | cksupd | cksget | crcinit | crcupd | crcgetl | crcgeth | cksbuf | crcbuf => rfl
  | push imm => exact congrArg Host.Outcome.next (s.overlay_pushByte g e imm)
  | spr seq ct tag => exact congrArg Host.Outcome.next (s.overlay_load g e _)
  | pop => exact execPop_overlay g e s
  | decode => exact execDecode_overlay g e s
  | frameCk a k p => exact s.overlay_rxSteps g e (frameCkBytes s.cfg a k p)
  | frameCrc a k p => exact s.overlay_rxSteps g e (frameCrcBytes s.cfg a k p)
  | encode => simp [exec, execEncode]
  | scsel imm =>
    show execScsel _ _ = mapNext _ (execScsel imm s)
    rw [execScsel, execScsel, mapNext_ite, State.overlay_raise]
    rfl
  | scstat => simp [exec, execScstat, hread]
  | scfails => simp [exec, execScfails, hread]
  | sckey => simp [exec, execSckey, hread, hwrite]
  | scclr => simp [exec, execScclr, hwrite]
  | scinit => simp [exec, execScinit, hread, hwriteDrawn]
  | scchal => simp [exec, execScchal, hread, hwriteDrawn]
  | scvrfy => simp [exec, execScvrfy, hread, hwrite]
  | scrvfy => simp [exec, execScrvfy, hread, hwrite]
  | scfin imm => simp [exec, execScfin, hread, hwrite]
  | sctmo => simp [exec, execSctmo, hread, hwrite]
  | scretry => simp [exec, execScretry, hread, hwrite]
  | scwrap => simp [exec, execScwrap, hread, hwrite]
  | scunwrap => simp [exec, execScunwrap, State.unwrapFail, hread, hwrite]
  | scadmit =>
    show execScadmit _ = mapNext _ (execScadmit s)
    rw [execScadmit, execScadmit, mapNext_ite, hread, State.overlay_raise]
    rfl

end

/-- Settles O56: changing another context is an overlay; RDFLAGS and CLRFLAGS look at no context at all. -/
theorem contextsAreIndependent : Obligations.ContextsAreIndependent := by
  unfold Obligations.ContextsAreIndependent
  intro i s k x hreset hk
  by_cases hrd : i = .rdflags
  · subst hrd; rfl
  by_cases hclr : i = .clrflags
  · subst hclr; rfl
  have hover (t : State) : t.overlay (·.set k x) 0#8 = { t with sc := t.sc.set k x } := by simp [State.overlay]
  have hexec := exec_overlay 0#8 (blindTo_set hk x) hreset hrd hclr
  rw [funext hover] at hexec
  exact hexec

/-! ## The flags -/

theorem and_or_self_right (x bits : Byte) : x &&& (x ||| bits) = x := by
  ext j hj
  rw [BitVec.getElem_and, BitVec.getElem_or]
  exact inf_sup_self

/-- A state is the one without flags, with its flags on top. -/
theorem State.overlay_flags (s : State) (e : Byte) :
    ({ s with eflags := 0#8 } : State).overlay id e = { s with eflags := e } := by
  simp [State.overlay]

/-- An instruction but RDFLAGS does the same to everything but EFLAGS, whatever the flags are (10_state.md R28). -/
theorem exec_flags_inert {i : Instr} (hrd : i ≠ .rdflags) (s : State) (e : Byte) :
    mapNext (fun t => { t with eflags := 0#8 }) (exec i { s with eflags := e }) =
      mapNext (fun t => { t with eflags := 0#8 }) (exec i { s with eflags := 0#8 }) := by
  by_cases hreset : i = .reset
  · subst hreset; rfl
  by_cases hclr : i = .clrflags
  · subst hclr; rfl
  rw [← State.overlay_flags, exec_overlay e (blindTo_id _) hreset hrd hclr]
  cases exec i { s with eflags := 0#8 } <;> rfl

/-- Settles O59: a command's answer names its flags (`exec_answers`), flags are only ever added (`exec_eflags`), and
the flags a state has are an overlay that no instruction but RDFLAGS reads (`exec_flags_inert`). -/
theorem flagsAreStickyAndInert : Obligations.FlagsAreStickyAndInert := by
  unfold Obligations.FlagsAreStickyAndInert
  refine ⟨?flagOfStatus, ?cleared, ?sticky, ?inert⟩
  case flagOfStatus =>
    rintro i s ⟨hck, hcrc, -⟩ hclr hreset
    obtain ⟨t, ht, hans⟩ := exec_answers s hck hcrc hclr hreset
    obtain ⟨st, data, hresp, hflags⟩ := hans.answer
    exact ⟨t, st.code, data, ht, hresp, flagsOf_eq i st ▸ hflags⟩
  case cleared =>
    rintro s t (h | h | rfl | rfl)
    · cases h; rfl
    · cases h; rfl
    · rfl
    · rfl
  case sticky =>
    intro i s t hclr hreset h
    obtain ⟨rfl | rfl, -⟩ | ⟨bits, ht, -⟩ := exec_eflags h
    · exact absurd rfl hreset
    · exact absurd rfl hclr
    · rw [ht]
      exact and_or_self_right s.eflags bits
  case inert =>
    intro i s e hrd
    exact (exec_flags_inert hrd s e).trans (exec_flags_inert hrd s s.eflags).symm

end Sys2Proof.Machine

/-! # The decoder and the encoder (30_encoding.md R100 to R122) -/

namespace Sys2Proof.Machine

/-! ## Command words -/

section
variable {op imm : Byte} {i : Instr}

/-- The opcode map decides what a command word is (30_encoding.md R100, R121). -/
theorem decodeCommand_append_eq_ok_iff :
    decodeCommand (op ++ imm) = .ok i ↔ decodeOpcode op.toNat imm = some i := by
  rw [decodeCommand, opcodeOf, immOf, highByte_append, lowByte_append]
  cases decodeOpcode op.toNat imm <;> simp

/-- A word whose opcode is not in the map is no instruction (30_encoding.md R122). -/
theorem decodeCommand_append_of_eq_none (h : decodeOpcode op.toNat imm = none) :
    decodeCommand (op ++ imm) = .error (.unassignedOpcode op) := by
  rw [decodeCommand, opcodeOf, immOf, highByte_append, lowByte_append, h]

theorem decodeItem_commandWord (c : Cfg) (h : decodeOpcode op.toNat imm = some i) :
    decodeItem c (commandWord op imm) = .ok i :=
  decodeCommand_append_eq_ok_iff.mpr h

theorem commandI_of_decodeOpcode {f : Byte → Instr} (h : ∀ imm, decodeOpcode op.toNat imm = some (f imm)) :
    CommandI op f :=
  fun imm => decodeCommand_append_eq_ok_iff.mpr (h imm)

end

/-! ## The opcode map -/

/-- The opcodes of the format I commands (30_encoding.md R100). -/
abbrev formatIOpcodes : List Byte := [0x10#8, 0x20#8, 0x21#8, 0x31#8, 0x34#8, 0x40#8, 0x48#8]

/-- The unassigned opcodes (30_encoding.md R122). -/
theorem decodeOpcode_eq_none_of_unassigned {n : Nat} (imm : Byte)
    (h : n = 0x02 ∨ (0x05 ≤ n ∧ n ≤ 0x0F) ∨ (0x17 ≤ n ∧ n ≤ 0x1F) ∨ (0x28 ≤ n ∧ n ≤ 0x2F) ∨
      (0x39 ≤ n ∧ n ≤ 0x3F) ∨ n = 0x4F ∨ 0x50 ≤ n) :
    decodeOpcode n imm = none := by
  unfold decodeOpcode
  split
  case h_44 => rfl
  all_goals omega

/-- A row of the map is the row of `encodeItem`: the opcode is the same, and the low byte is the operand of a format I
command, 0x00 of a format N command (30_encoding.md R100, R121). -/
theorem encodeItem_of_decodeOpcode (c : Cfg) {n : Nat} {imm : Byte} {i : Instr} (h : decodeOpcode n imm = some i) :
    encodeItem c i =
      .command (BitVec.ofNat 8 n ++ if BitVec.ofNat 8 n ∈ formatIOpcodes then imm else 0x00#8) := by
  unfold decodeOpcode at h
  split at h
  case h_44 => cases h
  all_goals
    cases h
    rfl

/-- The row of a format N opcode does not look at the low byte (30_encoding.md R120). -/
theorem decodeOpcode_of_formatN {n : Nat} {x : Byte} {i : Instr} (hn : BitVec.ofNat 8 n ∉ formatIOpcodes)
    (h : decodeOpcode n x = some i) (y : Byte) : decodeOpcode n y = some i := by
  unfold decodeOpcode at h
  split at h
  -- the seven rows of format I, which `hn` excludes
  case h_5 | h_12 | h_13 | h_21 | h_24 | h_29 | h_37 => exact absurd (by decide) hn
  case h_44 => cases h
  all_goals
    cases h
    rfl

/-! ## Frames on the line -/

/-- A length field in the range of 30_encoding.md R107 brings the parser step to the rest of the frame
(41_framer_decode.md R163). -/
theorem parseFrame_of_length {c : Cfg} {a lo hi : Byte} {tail : List Byte} (hmin : 6 ≤ fromLe16 lo hi)
    (hmax : fromLe16 lo hi ≤ c.maxFrameLen) :
    parseFrame c (c.som :: a :: lo :: hi :: tail) =
      parseBody c (c.som :: a :: lo :: hi :: tail) (fromLe16 lo hi) := by
  have hlen : ¬ (fromLe16 lo hi < 6 ∨ c.maxFrameLen < fromLe16 lo hi) := by omega
  simp [parseFrame, byteAt, hlen]

/-- A whole frame whose trailer is the computed one is delivered, and what stands behind it is left
(41_framer_decode.md R163). -/
theorem parseBody_of_trailerBytes (c : Cfg) {som a lo hi k : Byte} {p rest buf : List Byte}
    (hbuf : buf = som :: a :: lo :: hi :: k :: (p ++ trailerBytes c a k p ++ rest)) :
    parseBody c buf (frameLen k p.length) = .frame a k p rest := by
  have htrailer := trailerBytes_length c a k p
  have hlen : frameLen k p.length = 5 + p.length + (trailerBytes c a k p).length := by
    rw [htrailer, frameLen, hdrLen]
  have haddr : byteAt buf 1 = a := by rw [hbuf]; rfl
  have hctrl : byteAt buf 4 = k := by rw [hbuf]; rfl
  have hpayload : slice buf hdrLen (frameLen k p.length - hdrLen - trailerLen k) = p := by
    have hn : frameLen k p.length - hdrLen - trailerLen k = p.length := by simp only [frameLen]; omega
    rw [hn, hbuf]
    simp [slice, hdrLen]
  have hleft : buf.drop (frameLen k p.length) = rest := by
    rw [hbuf]
    exact List.drop_left' (l₁ := som :: a :: lo :: hi :: k :: (p ++ trailerBytes c a k p)) (by simp [hlen]; omega)
  have hwhole : frameLen k p.length ≤ buf.length := by simp [hbuf, hlen]; omega
  have hgood : trailerGood c buf (frameLen k p.length) = true := by
    rw [hlen, hbuf]
    exact (trailerGood_iff c a lo hi k p _ rest som htrailer).mpr rfl
  have hmin : hdrLen + trailerLen k ≤ frameLen k p.length := by simp only [frameLen]; omega
  have hheader : hdrLen ≤ buf.length := by omega
  simp only [parseBody, haddr, hctrl, hpayload, hleft, hgood, if_true, if_neg (Nat.not_lt.mpr hheader),
    if_neg (Nat.not_lt.mpr hmin), if_neg (Nat.not_lt.mpr hwhole)]

/-- The parser delivers the frame that the encoder makes, and leaves what stands behind it (40_framer_encode.md R140,
41_framer_decode.md R163). -/
theorem parseFrame_encodeFrame_append {c : Cfg} {a k : Byte} {p : List Byte} (hcfg : c.maxFrameLen ≤ 65535)
    (hlen : frameLen k p.length ≤ c.maxFrameLen) (rest : List Byte) :
    parseFrame c (encodeFrame c a k p ++ rest) = .frame a k p rest := by
  have hfield := fromLe16_lenWord (hlen.trans hcfg)
  have hmin : 6 ≤ frameLen k p.length := by
    have := trailerLen_pos k
    simp only [frameLen, hdrLen]
    omega
  simp only [encodeFrame_eq, List.cons_append]
  rw [parseFrame_of_length (hfield.symm ▸ hmin) (hfield.symm ▸ hlen), hfield, parseBody_of_trailerBytes c rfl]

/-- Decoding a frame gives the row that its `CONTROL[2]` selects (30_encoding.md R102). -/
theorem decodeLine_encodeFrame {c : Cfg} {a k : Byte} {p : List Byte} (hcfg : c.maxFrameLen ≤ 65535)
    (hlen : frameLen k p.length ≤ c.maxFrameLen) :
    decodeLine c (encodeFrame c a k p) = .ok (if controlCrc k then .frameCrc a k p else .frameCk a k p) := by
  have hparse := parseFrame_encodeFrame_append (a := a) hcfg hlen []
  rw [List.append_nil] at hparse
  rw [decodeLine, hparse]
  exact (apply_ite Except.ok (controlCrc k = true) (Instr.frameCrc a k p) (Instr.frameCk a k p)).symm

theorem wfFrameCk_iff {c : Cfg} {k : Byte} {p : List Byte} :
    wfFrameCk c k p = true ↔ controlCrc k = false ∧ frameLen k p.length ≤ c.maxFrameLen := by
  cases h : controlCrc k <;> simp [wfFrameCk, frameLen, trailerLen, hdrLen, h]
  omega

theorem wfFrameCrc_iff {c : Cfg} {k : Byte} {p : List Byte} :
    wfFrameCrc c k p = true ↔ controlCrc k = true ∧ frameLen k p.length ≤ c.maxFrameLen := by
  cases h : controlCrc k <;> simp [wfFrameCrc, frameLen, trailerLen, hdrLen, h]
  omega

theorem decodeLine_frameCkBytes {c : Cfg} {a k : Byte} {p : List Byte} (hcfg : c.maxFrameLen ≤ 65535)
    (hwf : wfFrameCk c k p = true) : decodeLine c (frameCkBytes c a k p) = .ok (.frameCk a k p) := by
  obtain ⟨hk, hlen⟩ := wfFrameCk_iff.mp hwf
  simpa [encodeFrame, hk] using decodeLine_encodeFrame (a := a) hcfg hlen

theorem decodeLine_frameCrcBytes {c : Cfg} {a k : Byte} {p : List Byte} (hcfg : c.maxFrameLen ≤ 65535)
    (hwf : wfFrameCrc c k p = true) : decodeLine c (frameCrcBytes c a k p) = .ok (.frameCrc a k p) := by
  obtain ⟨hk, hlen⟩ := wfFrameCrc_iff.mp hwf
  simpa [encodeFrame, hk] using decodeLine_encodeFrame (a := a) hcfg hlen

/-! ## Secure payload regions -/

/-- A region with a tag of TAG_LEN bytes is read back field by field (30_encoding.md R112). -/
theorem decodeRegion_sprBytes {c : Cfg} (seq : Word32) (ct : List Byte) {tag : List Byte}
    (htag : tag.length = c.tagLen) : decodeRegion c (sprBytes seq ct tag) = .ok (.spr seq ct tag) := by
  have hlong : ¬ (sprBytes seq ct tag).length < secOvh c := by
    simp only [sprBytes_length, secOvh, Cfg.seqLen]
    omega
  rw [decodeRegion, if_neg hlong, sprSeq_sprBytes, sprCt_sprBytes c seq ct tag htag, sprTag_sprBytes c seq ct tag htag]

/-! ## The obligations about decoding and encoding -/

/-- Settles O4: a frame is delivered by the parser, a region is read field by field, and every command is a row of the
opcode map. -/
theorem decodeInvertsEncode : Obligations.DecodeInvertsEncode := by
  unfold Obligations.DecodeInvertsEncode
  intro c i hcfg hwf
  obtain ⟨-, hmax, -⟩ := hcfg
  cases i with
  | frameCk a k p => exact decodeLine_frameCkBytes hmax hwf
  | frameCrc a k p => exact decodeLine_frameCrcBytes hmax hwf
  | spr seq ct tag =>
    have htag : tag.length = c.tagLen := by
      simp only [Instr.wf, wfSpr, Bool.and_eq_true, decide_eq_true_eq] at hwf
      exact hwf.1
    exact decodeRegion_sprBytes seq ct htag
  | _ => exact decodeItem_commandWord c rfl

/-- Settles O2: the opcode is not in the map, so the word decodes to nothing, and the rule of the command port says the
outcome. -/
theorem unassignedOpcodeRaises : Obligations.UnassignedOpcodeRaises := by
  unfold Obligations.UnassignedOpcodeRaises
  intro s op imm hop
  have hnone : decodeOpcode op.toNat imm = none := by
    apply decodeOpcode_eq_none_of_unassigned
    simpa [BitVec.le_def, ← BitVec.toNat_inj] using hop
  have herror : decodeItem s.cfg (.command (op ++ imm)) = .error _ := decodeCommand_append_of_eq_none hnone
  rw [stepItem_of_decodeItem_error herror, State.undecoded_command]

/-- Settles O5: a word that decodes is a row of the opcode map, which `encodeItem` has too. -/
theorem encodeInvertsDecode : Obligations.EncodeInvertsDecode := by
  unfold Obligations.EncodeInvertsDecode
  intro c op imm i h
  simpa using encodeItem_of_decodeOpcode c (decodeCommand_append_eq_ok_iff.mp h)

/-- SCFIN looks at bit 0 of its operand alone (30_encoding.md R120, 43_secure_handshake.md R222). -/
theorem execScfin_congr {x y : Byte} (h : verdictOf x = verdictOf y) (s : State) : execScfin x s = execScfin y s := by
  rw [execScfin, execScfin, h]

/-- Settles O6: the format I rows of the map carry the low byte, the format N rows do not look at it, and SCFIN's
verdict is bit 0. -/
theorem operandAssembly : Obligations.OperandAssembly := by
  unfold Obligations.OperandAssembly
  refine ⟨?formatI, ?formatN, ?scfin⟩
  case formatI =>
    refine ⟨?_, ?_, ?_, ?_, ?_, ?_, ?_⟩
    all_goals exact commandI_of_decodeOpcode fun _ => rfl
  case formatN =>
    intro op x y hop i h
    rw [decodeCommand_append_eq_ok_iff] at h ⊢
    exact decodeOpcode_of_formatN (by simpa using hop) h y
  case scfin => exact fun x y s h => execScfin_congr h s

/-- Settles O3: seven rows of the opcode map, and the frame of vector E3 (95_test_vectors.md). -/
theorem sampleWordsDecode : Obligations.SampleWordsDecode := by
  unfold Obligations.SampleWordsDecode
  decide

/-! # The wire-format rows (30_encoding.md R101, R102, R112; log entry 3) -/

/-- A frame header, byte by byte, whatever the length (30_encoding.md R101, R106). -/
theorem frameHeader_eq (c : Cfg) (a k : Byte) (n : Nat) :
    frameHeader c a k n = [c.som, a, BitVec.ofNat 8 n, BitVec.ofNat 8 (n / 256), k] := by
  rw [frameHeader, le16, lowByte_lenWord, highByte_lenWord]
  rfl

/-- A FRAME.CK row, byte by byte (30_encoding.md R101, R110). -/
theorem frameCkBytes_eq (c : Cfg) (a k : Byte) (p : List Byte) :
    frameCkBytes c a k p =
      [c.som, a, BitVec.ofNat 8 (6 + p.length), BitVec.ofNat 8 ((6 + p.length) / 256), k] ++ p ++
        [cksum (a :: k :: p)] := by
  have hlen : hdrLen + p.length + 1 = 6 + p.length := by simp only [hdrLen]; omega
  rw [frameCkBytes, frameHeader_eq, hlen, covered]

/-- A FRAME.CRC row, byte by byte (30_encoding.md R101, R111). -/
theorem frameCrcBytes_eq (c : Cfg) (a k : Byte) (p : List Byte) :
    frameCrcBytes c a k p =
      [c.som, a, BitVec.ofNat 8 (7 + p.length), BitVec.ofNat 8 ((7 + p.length) / 256), k] ++ p ++
        [(crc16 c (a :: k :: p)).extractLsb' 0 8, (crc16 c (a :: k :: p)).extractLsb' 8 8] := by
  have hlen : hdrLen + p.length + 2 = 7 + p.length := by simp only [hdrLen]; omega
  rw [frameCrcBytes, frameHeader_eq, hlen, covered, le16, lowByte_eq_extract, highByte_eq_extract]

theorem frameCkBytes_length (c : Cfg) (a k : Byte) (p : List Byte) :
    (frameCkBytes c a k p).length = 6 + p.length := by
  simp [frameCkBytes_eq]
  omega

theorem frameCrcBytes_length (c : Cfg) (a k : Byte) (p : List Byte) :
    (frameCrcBytes c a k p).length = 7 + p.length := by
  simp [frameCrcBytes_eq]
  omega

/-- Settles O34: both rows are RXCH steps (41_framer_decode.md R160) of the bytes of `frameCkBytes_eq` and
`frameCrcBytes_eq`. -/
theorem frameRowsReceiveTheirBytes : Obligations.FrameRowsReceiveTheirBytes := by
  unfold Obligations.FrameRowsReceiveTheirBytes
  intro s a k p
  rw [← frameCkBytes_eq, ← frameCrcBytes_eq, ← frameCkBytes_length s.cfg a k p, ← frameCrcBytes_length s.cfg a k p]
  exact ⟨State.rxSteps_of_le, State.rxSteps_of_le, State.rxSteps_of_lt, State.rxSteps_of_lt⟩

/-- Settles O35: the row is the LOAD (30_encoding.md R127) of `le32(SEQ) ++ CT ++ TAG`, as for any other region. -/
theorem sprRowLoadsTheOperandBuffer : Obligations.SprRowLoadsTheOperandBuffer := by
  unfold Obligations.SprRowLoadsTheOperandBuffer
  intro s seq ct tag bytes hbytes
  obtain rfl : bytes = sprBytes seq ct tag := by rw [hbytes, sprBytes, le32_eq_extract]
  exact ⟨State.undecoded_region_of_le, State.undecoded_region_of_gt⟩

end Sys2Proof.Machine

/-! # The framer's transmit side (40_framer_encode.md R140 to R147) -/

namespace Sys2Proof.Machine

/-! ## The bytes of a frame -/

theorem encodeFrame_of_controlCrc_eq_false {c : Cfg} {a k : Byte} {p : List Byte} (hk : controlCrc k = false) :
    encodeFrame c a k p = frameCkBytes c a k p := by
  simp [encodeFrame, hk]

theorem encodeFrame_of_controlCrc {c : Cfg} {a k : Byte} {p : List Byte} (hk : controlCrc k = true) :
    encodeFrame c a k p = frameCrcBytes c a k p := by
  simp [encodeFrame, hk]

/-- Settles O25: bit 2 of the control byte picks one of the two formats, whose bytes are those of the FRAME rows. -/
theorem encodedFrameLayout : Obligations.EncodedFrameLayout := by
  unfold Obligations.EncodedFrameLayout
  intro c a k p
  refine ⟨fun hk _ => ?checksum, fun hk _ => ?crc⟩
  case checksum => exact (encodeFrame_of_controlCrc_eq_false hk).trans (frameCkBytes_eq c a k p)
  case crc => exact (encodeFrame_of_controlCrc hk).trans (frameCrcBytes_eq c a k p)

/-! ## The TXCH step -/

section
variable {s : State}

theorem State.txStep_of_eq_cons {b : Byte} {q : List Byte} (h : s.txfifo = b :: q) :
    s.txStep = .next { s with txfifo := q, env := { s.env with wire := s.env.wire ++ [b] } } := by
  rw [State.txStep, h]

theorem State.txStep_of_eq_nil (h : s.txfifo = []) : s.txStep = .fault .txchNotEnabled := by
  rw [State.txStep, h]

/-- A TXCH step at the head of the list is taken off it, and `txStep` says what it does. -/
theorem step_of_tx {rest : List Event} (h : s.env.events = .tx :: rest) :
    step s = State.txStep { s with env := { s.env with events := rest } } := by
  have hnext : s.nextEvent = some .tx := by rw [State.nextEvent, h, List.head?_cons]
  rw [step, hnext, ← State.dropEvent_of_events_eq_cons h]

end

/-- Settles O8: the step is `txStep` at the state without the event, whose TXFIFO is the same. -/
theorem txchStepRemovesHead : Obligations.TxchStepRemovesHead := by
  unfold Obligations.TxchStepRemovesHead
  intro s rest hev
  refine ⟨fun b q hq => ?enabled, fun hempty => ?notEnabled⟩
  case enabled => exact (step_of_tx hev).trans (State.txStep_of_eq_cons hq)
  case notEnabled => exact (step_of_tx hev).trans (State.txStep_of_eq_nil hempty)

/-! ## ENCODE -/

section
variable {s : State}

theorem execEncode_of_gt (h : s.cfg.maxFrameLen < frameLen s.txctrl s.ilen) :
    execEncode s = .next (s.raise .overflow) :=
  if_pos h

theorem execEncode_of_not_txRoom (hlen : frameLen s.txctrl s.ilen ≤ s.cfg.maxFrameLen)
    (hroom : ¬s.txRoom (frameLen s.txctrl s.ilen)) : execEncode s = .next (s.raise .txfull) :=
  (if_neg hlen.not_gt).trans (if_neg hroom)

theorem execEncode_of_txRoom (hlen : frameLen s.txctrl s.ilen ≤ s.cfg.maxFrameLen)
    (hroom : s.txRoom (frameLen s.txctrl s.ilen)) :
    execEncode s = .next ((s.transmit (encodeFrame s.cfg s.txaddr s.txctrl s.ibuf)).ok
      (lenByte (frameLen s.txctrl s.ilen))) :=
  (if_neg hlen.not_gt).trans (if_pos hroom)

end

/-- Settles O24: the length is `frameLen`, and its two checks leave the three outcomes of `execEncode`. -/
theorem encodeAppendsWholeFrame : Obligations.EncodeAppendsWholeFrame := by
  unfold Obligations.EncodeAppendsWholeFrame
  refine ⟨fun _ => decodeCommand_append_eq_ok_iff.mpr rfl, fun s len hlen => ?_⟩
  obtain rfl : len = frameLen s.txctrl s.ilen := hlen
  refine ⟨fun hlong => ?tooLong, fun hfits hfull => ?noRoom, fun hfits hroom => ?appended⟩
  case tooLong => exact execEncode_of_gt hlong
  case noRoom => exact execEncode_of_not_txRoom hfits hfull.not_ge
  case appended =>
    rw [← lenByte_eq_ofNat]
    exact execEncode_of_txRoom hfits hroom

end Sys2Proof.Machine

/-! # The framer's receive side (41_framer_decode.md R160 to R176) -/

namespace Sys2Proof.Machine

/-! ## The RXCH step -/

/-- An RXCH step at the head of the list is taken off it, and `rxSteps` says what it does. -/
theorem step_of_rx {s : State} {b : Byte} {rest : List Event} (h : s.env.events = .rx b :: rest) :
    step s = State.rxSteps [b] { s with env := { s.env with events := rest } } := by
  have hnext : s.nextEvent = some (.rx b) := by rw [State.nextEvent, h, List.head?_cons]
  rw [step, hnext, ← State.dropEvent_of_events_eq_cons h]

/-- Settles O7: the step is `rxSteps` of the one byte at the state without the event, whose RXBUF is the same. -/
theorem rxchStepAppendsByte : Obligations.RxchStepAppendsByte := by
  unfold Obligations.RxchStepAppendsByte
  intro s b rest hev
  refine ⟨fun hroom => ?enabled, fun hfull => ?notEnabled⟩
  case enabled => exact (step_of_rx hev).trans (State.rxSteps_of_le hroom)
  case notEnabled => exact (step_of_rx hev).trans (State.rxSteps_of_lt (Nat.lt_succ_of_le hfull))

/-! ## What DECODE does with the outcome of the parser step -/

/-- The state that DECODE makes of `s` for an outcome, with its response and flag as numbers (41_framer_decode.md R164
to R170). -/
def State.afterParse (s : State) : Parsed → State
  | .needMore => s.replied 0x01#8 0x00#8
  | .badStart left => ({ s with rxbuf := left } : State).raised 0x10#8 0x01#8
  | .badLength left => ({ s with rxbuf := left } : State).raised 0x11#8 0x02#8
  | .badTrailer left => ({ s with rxbuf := left } : State).raised 0x12#8 0x04#8
  | .frame addr ctrl payload left =>
    ({ s with rxaddr := addr, rxctrl := ctrl, obuf := payload, optr := 0#16, rxbuf := left } : State).answered
      (BitVec.ofNat 8 payload.length)

theorem exec_decode (s : State) : exec .decode s = .next (s.afterParse (parseFrame s.cfg s.rxbuf)) := by
  change execDecode s = _
  unfold execDecode
  cases parseFrame s.cfg s.rxbuf with
  | needMore | badStart | badLength | badTrailer => rfl
  | frame addr ctrl payload left =>
    rw [State.afterParse, ← lenByte_eq_ofNat payload.length]
    rfl

theorem exec_decode_of_parseFrame {s : State} {found : Parsed} (h : parseFrame s.cfg s.rxbuf = found) :
    exec .decode s = .next (s.afterParse found) := by
  rw [exec_decode, h]

/-- Settles O30: the parser step delivers what the encoder makes (`parseFrame_encodeFrame_append`), and DECODE stores
it. -/
theorem decodeDeliversEncodedFrame : Obligations.DecodeDeliversEncodedFrame := by
  unfold Obligations.DecodeDeliversEncodedFrame
  intro s a k p rest hcfg hlen hbuf
  have hfound : parseFrame s.cfg s.rxbuf = .frame a k p rest := by
    rw [hbuf]
    exact parseFrame_encodeFrame_append hcfg hlen rest
  exact exec_decode_of_parseFrame hfound

/-! ## What the parser step finds, by what stands at the head of the buffer -/

section
variable {c : Cfg} {a lo hi k : Byte} {B tail body p trailer : List Byte}

theorem byteAt_zero_ne_of_head?_ne {b : Byte} (hne : B ≠ []) (hhead : B.head? ≠ some b) : byteAt B 0 ≠ b := by
  obtain ⟨b', B, rfl⟩ := List.exists_cons_of_ne_nil hne
  simpa [byteAt] using hhead

/-- Without the marker in front everything up to the next `SOM` goes (41_framer_decode.md R164). -/
theorem parseFrame_of_head?_ne (hne : B ≠ []) (hhead : B.head? ≠ some c.som) :
    parseFrame c B = .badStart (resyncScan c B) := by
  simp [parseFrame, hne, byteAt_zero_ne_of_head?_ne hne hhead]

/-- Behind the marker the length has not been received (41_framer_decode.md R165). -/
theorem parseFrame_of_length_tail_lt (h : tail.length < 3) : parseFrame c (c.som :: tail) = .needMore := by
  have hshort : (c.som :: tail).length < 4 := Nat.succ_lt_succ h
  rw [parseFrame, if_neg (by simp), if_neg (by simp [byteAt]), if_pos hshort]

/-- CONTROL has not been received (41_framer_decode.md R165). -/
theorem parseFrame_of_no_control (hmin : 6 ≤ fromLe16 lo hi) (hmax : fromLe16 lo hi ≤ c.maxFrameLen) :
    parseFrame c [c.som, a, lo, hi] = .needMore :=
  parseFrame_of_length hmin hmax

/-- Steps 5 to 9 of DECODE where CONTROL has been received (41_framer_decode.md R163). -/
theorem parseBody_of_control (c : Cfg) (som a lo hi k : Byte) (body : List Byte) (len : Nat) :
    parseBody c (som :: a :: lo :: hi :: k :: body) len =
      if len < 5 + trailerLen k then .badLength (resyncScan c (a :: lo :: hi :: k :: body))
      else if body.length + 5 < len then .needMore
      else if trailerGood c (som :: a :: lo :: hi :: k :: body) len then
        .frame a k (slice body 0 (len - 5 - trailerLen k)) ((som :: a :: lo :: hi :: k :: body).drop len)
      else .badTrailer (resyncScan c ((som :: a :: lo :: hi :: k :: body).drop len)) := by
  have hheader : ¬(som :: a :: lo :: hi :: k :: body).length < hdrLen := by simp [hdrLen]
  rw [parseBody, if_neg hheader]
  rfl

/-- The frame is not whole (41_framer_decode.md R165). -/
theorem parseFrame_of_length_body_lt (hmin : 5 + trailerLen k ≤ fromLe16 lo hi) (hmax : fromLe16 lo hi ≤ c.maxFrameLen)
    (hbody : 5 + body.length < fromLe16 lo hi) :
    parseFrame c (c.som :: a :: lo :: hi :: k :: body) = .needMore := by
  have := trailerLen_pos k
  rw [parseFrame_of_length (by omega) hmax, parseBody_of_control, if_neg (by omega), if_pos (by omega)]

/-- The two forms of LengthMismatch for a length field `len` with `tail` behind it: out of range
(41_framer_decode.md R166), or too short for the trailer that CONTROL selects (R167). -/
def LengthMismatch (c : Cfg) (len : Nat) (tail : List Byte) : Prop :=
  len < 6 ∨ c.maxFrameLen < len ∨ ∃ k, tail.head? = some k ∧ len < 5 + trailerLen k

/-- More bytes behind do not undo a LengthMismatch. -/
theorem LengthMismatch.append {len : Nat} (h : LengthMismatch c len tail) (more : List Byte) :
    LengthMismatch c len (tail ++ more) :=
  h.imp_right <| Or.imp_right fun ⟨k, hk, hlt⟩ => ⟨k, by simp [hk], hlt⟩

/-- The marker and what follows it up to the next `SOM` go (41_framer_decode.md R166, R167). -/
theorem parseFrame_of_lengthMismatch (h : LengthMismatch c (fromLe16 lo hi) tail) :
    parseFrame c (c.som :: a :: lo :: hi :: tail) = .badLength (resyncScan c (a :: lo :: hi :: tail)) := by
  by_cases hrange : fromLe16 lo hi < 6 ∨ c.maxFrameLen < fromLe16 lo hi
  · simp [parseFrame, byteAt, hrange]
  · obtain ⟨hmin, hmax⟩ := not_or.mp hrange
    obtain ⟨k, hk, hlt⟩ := (h.resolve_left hmin).resolve_left hmax
    obtain ⟨body, rfl⟩ := List.head?_eq_some_iff.mp hk
    rw [parseFrame_of_length (Nat.not_lt.mp hmin) (Nat.not_lt.mp hmax), parseBody_of_control, if_pos hlt]

/-- A whole frame whose trailer is the computed one is delivered (41_framer_decode.md R170). -/
theorem parseFrame_of_trailerBytes (hlen : fromLe16 lo hi = frameLen k p.length)
    (hmax : fromLe16 lo hi ≤ c.maxFrameLen) (left : List Byte) :
    parseFrame c (c.som :: a :: lo :: hi :: k :: (p ++ trailerBytes c a k p ++ left)) = .frame a k p left := by
  have hmin : 6 ≤ fromLe16 lo hi := by
    have := trailerLen_pos k
    simp only [hlen, frameLen, hdrLen]
    omega
  rw [parseFrame_of_length hmin hmax, hlen, parseBody_of_trailerBytes c rfl]

/-- A whole frame with another trailer goes, and what follows it up to the next `SOM` (41_framer_decode.md R169). -/
theorem parseFrame_of_ne_trailerBytes (htrailer : trailer.length = trailerLen k)
    (hlen : fromLe16 lo hi = 5 + p.length + trailer.length) (hmax : fromLe16 lo hi ≤ c.maxFrameLen)
    (hbad : trailer ≠ trailerBytes c a k p) (left : List Byte) :
    parseFrame c (c.som :: a :: lo :: hi :: k :: (p ++ trailer ++ left)) = .badTrailer (resyncScan c left) := by
  have hpos := trailerLen_pos k
  have hcheck := mt (trailerGood_iff c a lo hi k p trailer left c.som htrailer).mp hbad
  have hwhole : ¬(p ++ trailer ++ left).length + 5 < 5 + p.length + trailer.length := by
    simp only [List.length_append]
    omega
  have hleft : (c.som :: a :: lo :: hi :: k :: (p ++ trailer ++ left)).drop (5 + p.length + trailer.length) = left :=
    List.drop_left' (l₁ := c.som :: a :: lo :: hi :: k :: (p ++ trailer)) (by simp; omega)
  rw [parseFrame_of_length (by omega) hmax, hlen, parseBody_of_control, if_neg (by omega), if_neg hwhole,
    if_neg hcheck, hleft]

end

/-! ## NEED_MORE, E_ISM, E_LEN and E_TRL -/

/-- Settles O26: in each of the four cases the parser step finds that bytes are missing. -/
theorem decodeWaitsForWholeFrame : Obligations.DecodeWaitsForWholeFrame := by
  unfold Obligations.DecodeWaitsForWholeFrame
  refine ⟨fun _ => decodeCommand_append_eq_ok_iff.mpr rfl, fun s => ?_⟩
  have hwait : parseFrame s.cfg s.rxbuf = .needMore → exec .decode s = .next (s.replied 0x01#8 0x00#8) :=
    exec_decode_of_parseFrame
  refine ⟨?empty, ?noLength, ?noControl, ?notWhole⟩
  case empty =>
    intro hbuf
    exact hwait (hbuf ▸ rfl)
  case noLength =>
    intro tail hbuf htail
    exact hwait (hbuf ▸ parseFrame_of_length_tail_lt htail)
  case noControl =>
    rintro a lo hi _ hbuf rfl hmin hmax
    exact hwait (hbuf ▸ parseFrame_of_no_control hmin hmax)
  case notWhole =>
    rintro a lo hi k body _ hbuf rfl hmin hmax hbody
    have hmin' : 5 + trailerLen k ≤ fromLe16 lo hi := by
      rw [trailerLen, apply_ite (5 + ·)]
      exact hmin
    exact hwait (hbuf ▸ parseFrame_of_length_body_lt hmin' hmax hbody)

/-- Settles O27: the first byte is not `SOM`, and the scan stops behind the garbage. -/
theorem decodeDiscardsGarbage : Obligations.DecodeDiscardsGarbage := by
  unfold Obligations.DecodeDiscardsGarbage
  intro s garbage rest hbuf hne hgarbage hrest
  have hhead : (garbage ++ rest).head? ≠ some s.cfg.som := by
    obtain ⟨b, garbage, rfl⟩ := List.exists_cons_of_ne_nil hne
    simpa using hgarbage b List.mem_cons_self
  have hfound : parseFrame s.cfg s.rxbuf = .badStart rest := by
    rw [hbuf, parseFrame_of_head?_ne (List.append_ne_nil_of_left_ne_nil hne rest) hhead,
      resyncScan_append s.cfg garbage rest hgarbage hrest]
  exact exec_decode_of_parseFrame hfound

/-- Settles O28: the length is a LengthMismatch, and the scan behind the marker stops at `rest`. -/
theorem decodeRejectsBadLength : Obligations.DecodeRejectsBadLength := by
  unfold Obligations.DecodeRejectsBadLength
  rintro s a lo hi tail skipped rest _ hbuf rfl hlen htail hskipped hrest
  have hmismatch : LengthMismatch s.cfg (fromLe16 lo hi) tail := by
    refine hlen.imp_right (Or.imp_right ?_)
    rintro ⟨hsix, k, hk, hcrc⟩
    exact ⟨k, hk, by simp [fromLe16, hsix, trailerLen, controlCrc, hcrc]⟩
  have hfound : parseFrame s.cfg s.rxbuf = .badLength rest := by
    rw [hbuf, parseFrame_of_lengthMismatch hmismatch, htail, resyncScan_append s.cfg skipped rest hskipped hrest]
  exact exec_decode_of_parseFrame hfound

theorem trailerBytes_of_controlCrc_eq_false {c : Cfg} {a k : Byte} {p : List Byte} (hk : controlCrc k = false) :
    trailerBytes c a k p = [cksum (a :: k :: p)] := by
  simp [trailerBytes, hk, covered]

theorem trailerBytes_of_controlCrc {c : Cfg} {a k : Byte} {p : List Byte} (hk : controlCrc k = true) :
    trailerBytes c a k p = [(crc16 c (a :: k :: p)).extractLsb' 0 8, (crc16 c (a :: k :: p)).extractLsb' 8 8] := by
  simp [trailerBytes, hk, covered, le16, lowByte_eq_extract, highByte_eq_extract]

/-- Settles O29: the trailer is as long as its kind and is not `trailerBytes`, and the scan behind the frame stops at
`rest`. -/
theorem decodeRejectsBadTrailer : Obligations.DecodeRejectsBadTrailer := by
  unfold Obligations.DecodeRejectsBadTrailer
  intro s a lo hi k p trailer skipped rest hbuf hlen hmax htrailer hskipped hrest
  obtain ⟨htlen, hbad⟩ : trailer.length = trailerLen k ∧ trailer ≠ trailerBytes s.cfg a k p := by
    obtain ⟨hk, hone, hbad⟩ | ⟨hk, htwo, hbad⟩ := htrailer
    · exact ⟨hone.trans (if_neg (Bool.eq_false_iff.mp hk)).symm, trailerBytes_of_controlCrc_eq_false hk ▸ hbad⟩
    · exact ⟨htwo.trans (if_pos hk).symm, trailerBytes_of_controlCrc hk ▸ hbad⟩
  have hfound : parseFrame s.cfg s.rxbuf = .badTrailer rest := by
    rw [hbuf, List.append_assoc (p ++ trailer), parseFrame_of_ne_trailerBytes htlen hlen.symm (hlen.ge.trans hmax) hbad,
      resyncScan_append s.cfg skipped rest hskipped hrest]
  exact exec_decode_of_parseFrame hfound

/-! ## A damaged trailer (41_framer_decode.md R175) -/

/-- A scan that finds a frame at the head leaves it as it is. -/
theorem resyncScan_encodeFrame (c : Cfg) (a k : Byte) (p : List Byte) :
    resyncScan c (encodeFrame c a k p) = encodeFrame c a k p := by
  rw [encodeFrame_eq]
  exact resyncScan_append c [] _ (by simp) (.inr List.head?_cons)

/-- A frame without its trailer (40_framer_encode.md R140). -/
theorem take_encodeFrame (c : Cfg) (a k : Byte) (p : List Byte) :
    (encodeFrame c a k p).take (5 + p.length) =
      c.som :: a :: lowByte (lenWord (frameLen k p.length)) :: highByte (lenWord (frameLen k p.length)) :: k :: p := by
  rw [encodeFrame_eq]
  exact List.take_left' (l₁ := c.som :: a :: _ :: _ :: k :: p) (by simp; omega)

/-- The parser step rejects an encoded frame with another trailer of the same length. -/
theorem parseFrame_of_damagedTrailer {c : Cfg} {a k : Byte} {p damaged : List Byte} (hcfg : c.maxFrameLen ≤ 65535)
    (hlen : frameLen k p.length ≤ c.maxFrameLen) (hdlen : damaged.length = trailerLen k)
    (hdamaged : damaged ≠ trailerBytes c a k p) (left : List Byte) :
    parseFrame c ((encodeFrame c a k p).take (5 + p.length) ++ damaged ++ left) = .badTrailer (resyncScan c left) := by
  have hfield := fromLe16_lenWord (hlen.trans hcfg)
  rw [take_encodeFrame]
  exact parseFrame_of_ne_trailerBytes hdlen (by rw [hfield, hdlen]; rfl) (hfield.symm ▸ hlen) hdamaged left

/-- Settles O32: the first DECODE finds the damaged trailer, and the scan stops at once, at the second frame; the second
DECODE is O30. -/
theorem damagedTrailerCostsOneFrame : Obligations.DamagedTrailerCostsOneFrame := by
  unfold Obligations.DamagedTrailerCostsOneFrame
  intro s a k a' k' p p' damaged trailer hcfg hlen hlen' hframe hdlen hdamaged hbuf
  obtain rfl : trailer = trailerBytes s.cfg a k p := by
    rw [take_encodeFrame, encodeFrame_eq] at hframe
    simpa using hframe.symm
  have hfound : parseFrame s.cfg s.rxbuf = .badTrailer (encodeFrame s.cfg a' k' p') := by
    rw [trailerBytes_length] at hdlen
    rw [hbuf, parseFrame_of_damagedTrailer hcfg hlen hdlen hdamaged, resyncScan_encodeFrame]
  have hsecond := decodeDeliversEncodedFrame (s.afterParse (.badTrailer (encodeFrame s.cfg a' k' p'))) a' k' p' []
    hcfg hlen' (List.append_nil _).symm
  exact ⟨_, _, exec_decode_of_parseFrame hfound, hsecond, rfl, rfl⟩

/-! ## Progress (41_framer_decode.md R172) -/

/-- What an outcome leaves in RXBUF, where it takes anything out. -/
def Parsed.left? : Parsed → Option (List Byte)
  | .needMore => none
  | .badStart left | .badLength left | .badTrailer left | .frame _ _ _ left => some left

/-- With a longest frame received no byte is missing, and the outcome leaves less than there was. -/
theorem parseFrame_left?_lt {c : Cfg} {B : List Byte} (hcfg : 5 ≤ c.maxFrameLen) (hB : c.maxFrameLen ≤ B.length) :
    ∃ left, (parseFrame c B).left? = some left ∧ left.length < B.length := by
  have hlong : 5 ≤ B.length := hcfg.trans hB
  obtain ⟨rfl, -⟩ | ⟨hne, hhead, h⟩ | ⟨tail, rfl, htail, -⟩ | ⟨a, lo, hi, tail, len, rfl, -, hwithLength⟩ :=
    parseFrame_cases c B
  · simp at hlong
  · exact ⟨_, congrArg Parsed.left? h, resyncScan_lt c B hne (byteAt_zero_ne_of_head?_ne hne hhead)⟩
  · simp only [List.length_cons] at hlong
    omega
  have hscan := Nat.lt_succ_of_le (resyncScan_length_le c (a :: lo :: hi :: tail))
  obtain ⟨-, h⟩ | ⟨-, -, rfl, -⟩ | ⟨k, body, rfl, -, hmax, hwithControl⟩ := hwithLength
  · exact ⟨_, congrArg Parsed.left? h, hscan⟩
  · simp at hlong
  obtain ⟨-, h⟩ | ⟨-, hpart, -⟩ | ⟨p, trailer, left, rfl, -, -, ⟨-, h⟩ | ⟨-, h⟩⟩ := hwithControl
  · exact ⟨_, congrArg Parsed.left? h, hscan⟩
  · simp only [List.length_cons] at hB
    omega
  · exact ⟨_, congrArg Parsed.left? h, by simp; omega⟩
  · have := resyncScan_length_le c left
    exact ⟨_, congrArg Parsed.left? h, by simp; omega⟩

/-- The status that DECODE answers for an outcome. -/
def Parsed.status : Parsed → Status
  | .needMore => .needMore
  | .badStart _ => .ism
  | .badLength _ => .len
  | .badTrailer _ => .trl
  | .frame .. => .ok

theorem State.highByte_of_resp_afterParse {s : State} {found : Parsed} {w : Word16}
    (h : (s.afterParse found).env.resp = some w) : highByte w = found.status.code := by
  cases found with
  | needMore | badStart | badLength | badTrailer | frame =>
    obtain rfl := Option.some.inj h
    exact highByte_append _ _

theorem State.rxbuf_afterParse {s : State} {found : Parsed} {left : List Byte} (h : found.left? = some left) :
    (s.afterParse found).rxbuf = left := by
  cases found with
  | needMore => cases h
  | badStart | badLength | badTrailer | frame => exact Option.some.inj h

/-- Settles O31: the parser step takes a byte out, so its outcome is not NeedMoreBytes. -/
theorem decodeMakesProgress : Obligations.DecodeMakesProgress := by
  unfold Obligations.DecodeMakesProgress
  intro s ⟨hmin, _⟩ hbuf
  obtain ⟨left, hleft, hlt⟩ := parseFrame_left?_lt (Nat.le_of_add_right_le (k := 2) hmin) hbuf
  refine ⟨_, exec_decode s, fun hresp => ?notNeedMore, ?shorter⟩
  case notNeedMore =>
    have hstatus : 0x01#8 = (parseFrame s.cfg s.rxbuf).status.code := State.highByte_of_resp_afterParse hresp
    generalize parseFrame s.cfg s.rxbuf = found at hleft hstatus
    cases found with
    | needMore => cases hleft
    | badStart | badLength | badTrailer | frame => simp [Parsed.status, Status.code] at hstatus
  case shorter => rwa [State.rxbuf_afterParse hleft]

/-! ## Bytes that arrive behind (41_framer_decode.md R176) -/

/-- The outcome when `more` stands behind the bytes that gave this one: what is left has `more` behind it, and a scan
goes on into `more`. NeedMoreBytes is here only to be total: `more` may resolve it. -/
def Parsed.append (c : Cfg) (more : List Byte) : Parsed → Parsed
  | .needMore => .needMore
  | .badStart left => .badStart (resyncScan c (left ++ more))
  | .badLength left => .badLength (resyncScan c (left ++ more))
  | .badTrailer left => .badTrailer (resyncScan c (left ++ more))
  | .frame addr ctrl payload left => .frame addr ctrl payload (left ++ more)

/-- Every outcome but NeedMoreBytes is decided by the bytes that gave it. -/
theorem parseFrame_append {c : Cfg} {B : List Byte} (hB : parseFrame c B ≠ .needMore) (more : List Byte) :
    parseFrame c (B ++ more) = (parseFrame c B).append c more := by
  obtain ⟨-, h⟩ | ⟨hne, hhead, h⟩ | ⟨-, -, -, h⟩ | ⟨a, lo, hi, tail, len, rfl, rfl, hwithLength⟩ := parseFrame_cases c B
  · exact absurd h hB
  · have hhead' : (B ++ more).head? ≠ some c.som := by rwa [List.head?_append_of_ne_nil B hne]
    rw [h, parseFrame_of_head?_ne (List.append_ne_nil_of_left_ne_nil hne more) hhead', resyncScan_append_more]
    rfl
  · exact absurd h hB
  have hlength (hmismatch : LengthMismatch c (fromLe16 lo hi) tail) :
      parseFrame c (c.som :: a :: lo :: hi :: tail ++ more) =
        (parseFrame c (c.som :: a :: lo :: hi :: tail)).append c more := by
    rw [parseFrame_of_lengthMismatch hmismatch]
    refine (parseFrame_of_lengthMismatch (hmismatch.append more)).trans ?_
    exact congrArg Parsed.badLength (resyncScan_append_more c (a :: lo :: hi :: tail) more)
  obtain ⟨hrange, -⟩ | ⟨-, -, -, h⟩ | ⟨k, body, rfl, -, hmax, hwithControl⟩ := hwithLength
  · exact hlength (hrange.imp_right .inl)
  · exact absurd h hB
  obtain ⟨hshort, -⟩ | ⟨-, -, h⟩ | ⟨p, trailer, left, rfl, htrailer, hlen, hfound⟩ := hwithControl
  · exact hlength (.inr (.inr ⟨k, rfl, hshort⟩))
  · exact absurd h hB
  have hassoc : c.som :: a :: lo :: hi :: k :: (p ++ trailer ++ left) ++ more =
      c.som :: a :: lo :: hi :: k :: (p ++ trailer ++ (left ++ more)) := by simp
  obtain ⟨rfl, h⟩ | ⟨hbad, h⟩ := hfound
  · rw [h, hassoc, parseFrame_of_trailerBytes (hlen.trans (by rw [htrailer]; rfl)) hmax]
    rfl
  · rw [h, hassoc, parseFrame_of_ne_trailerBytes htrailer hlen hmax hbad, resyncScan_append_more]
    rfl

/-- Settles O33: the status that is answered tells which outcome the parser step had, and that outcome stands with more
bytes behind (`parseFrame_append`). -/
theorem arrivalsDoNotChangeTheOutcome : Obligations.ArrivalsDoNotChangeTheOutcome := by
  unfold Obligations.ArrivalsDoNotChangeTheOutcome
  intro s t more ht
  obtain rfl : s.afterParse (parseFrame s.cfg s.rxbuf) = t := by
    cases (exec_decode s).symm.trans ht
    rfl
  have hmore (hne : parseFrame s.cfg s.rxbuf ≠ .needMore) :
      exec .decode { s with rxbuf := s.rxbuf ++ more } =
        .next (State.afterParse { s with rxbuf := s.rxbuf ++ more } ((parseFrame s.cfg s.rxbuf).append s.cfg more)) :=
    exec_decode_of_parseFrame (parseFrame_append hne more)
  generalize parseFrame s.cfg s.rxbuf = found at hmore
  refine ⟨fun ⟨d, hresp⟩ => ?delivered, fun hresp => ?rejected⟩
  case delivered =>
    have hstatus := State.highByte_of_resp_afterParse hresp
    rw [highByte_append] at hstatus
    cases found with
    | frame => exact hmore nofun
    | needMore | badStart | badLength | badTrailer => simp [Parsed.status, Status.code] at hstatus
  case rejected =>
    have hstatus : 0x11#8 = found.status.code ∨ 0x12#8 = found.status.code :=
      hresp.imp State.highByte_of_resp_afterParse State.highByte_of_resp_afterParse
    cases found with
    | badLength | badTrailer => exact hmore nofun
    | needMore | badStart | frame => simp [Parsed.status, Status.code] at hstatus

end Sys2Proof.Machine

/-! # The trailer generator (42_trailer_generator.md R190 to R202) -/

namespace Sys2Proof.Machine

/-! ## The checksum (R190) -/

theorem byteSum_append (s t : List Byte) : byteSum (s ++ t) = byteSum s + byteSum t := by
  simp [byteSum]

theorem byteSum_singleton (b : Byte) : byteSum [b] = b.toNat := by
  simp [byteSum]

/-- The answer of CKSGET and CKSBUF is the two's complement of the accumulator (R196, R197). -/
theorem cksAnswer_eq_neg (acc : Byte) : cksAnswer acc = -acc := by
  apply BitVec.eq_of_toNat_eq
  rw [cksAnswer, BitVec.toNat_ofNat, BitVec.toNat_neg]

/-- The checksum is the two's complement of the byte sum, cut to 8 bits (R190). -/
theorem cksum_eq_neg (s : List Byte) : cksum s = -BitVec.ofNat 8 (byteSum s) :=
  cksAnswer_eq_neg (BitVec.ofNat 8 (byteSum s))

/-- Adding the bytes one at a time modulo 256 adds their exact sum modulo 256 (R190, R195). -/
theorem foldl_add_eq_add_byteSum (s : List Byte) (acc : Byte) :
    s.foldl (· + ·) acc = acc + BitVec.ofNat 8 (byteSum s) := by
  induction s generalizing acc with
  | nil => simp [byteSum]
  | cons b s ih =>
    have hsum : byteSum (b :: s) = b.toNat + byteSum s := List.sum_cons
    rw [List.foldl_cons, ih, hsum, BitVec.ofNat_add, BitVec.ofNat_toNat, BitVec.setWidth_eq, BitVec.add_assoc]

/-- Settles O20: the checksum is the negative of what it is added to. -/
theorem checksumResidueIsZero : Obligations.ChecksumResidueIsZero := by
  unfold Obligations.ChecksumResidueIsZero
  intro s
  have hsum : BitVec.ofNat 8 (byteSum (s ++ [cksum s])) = 0#8 := by
    rw [byteSum_append, byteSum_singleton, BitVec.ofNat_add, BitVec.ofNat_toNat, BitVec.setWidth_eq, cksum_eq_neg,
      BitVec.add_right_neg]
  rw [cksum_eq_neg, hsum, BitVec.neg_zero]

/-! ## One shift of `crc_step` (R191) -/

section
variable {poly acc : Word16}

theorem crcShift_of_getLsbD (h : acc.getLsbD 15 = true) : crcShift poly acc = (acc <<< 1) ^^^ poly :=
  if_pos h

theorem crcShift_of_getLsbD_eq_false (h : acc.getLsbD 15 = false) : crcShift poly acc = acc <<< 1 :=
  if_neg (ne_true_of_eq_false h)

end

theorem crcShift_zero (poly : Word16) : crcShift poly 0#16 = 0#16 :=
  crcShift_of_getLsbD_eq_false rfl

/-- `poly` goes in when exactly one of the two has bit 15, and twice, so not at all, when both have it. -/
theorem crcShift_xor (poly x y : Word16) :
    crcShift poly (x ^^^ y) = crcShift poly x ^^^ crcShift poly y := by
  have hbit : (x ^^^ y).getLsbD 15 = (x.getLsbD 15 ^^ y.getLsbD 15) := BitVec.getLsbD_xor
  unfold crcShift
  rw [hbit, BitVec.shiftLeft_xor_distrib]
  cases x.getLsbD 15 <;> cases y.getLsbD 15
  case false.false => rfl
  case false.true => exact BitVec.xor_assoc ..
  case true.false => simp only [Bool.xor_false, if_true, Bool.false_eq_true, if_false]; ac_rfl
  case true.true =>
    calc x <<< 1 ^^^ y <<< 1
      _ = x <<< 1 ^^^ y <<< 1 ^^^ (poly ^^^ poly) := by rw [BitVec.xor_self, BitVec.xor_zero]
      _ = x <<< 1 ^^^ poly ^^^ (y <<< 1 ^^^ poly) := by ac_rfl

/-! ## Several shifts -/

theorem crcStep_eq_iterate (poly acc : Word16) (b : Byte) :
    crcStep poly acc b = (crcShift poly)^[8] (acc ^^^ (b.setWidth 16 <<< 8)) := rfl

theorem iterate_crcShift_xor (poly x y : Word16) (n : Nat) :
    (crcShift poly)^[n] (x ^^^ y) = (crcShift poly)^[n] x ^^^ (crcShift poly)^[n] y := by
  induction n with
  | zero => rfl
  | succ n ih => simp only [Function.iterate_succ_apply', ih, crcShift_xor]

/-- A byte in bits 7:0 reaches bit 15 only after eight shifts, so the polynomial does not go in before. -/
theorem iterate_crcShift_setWidth (poly : Word16) (b : Byte) {n : Nat} (hn : n ≤ 8) :
    (crcShift poly)^[n] (b.setWidth 16) = b.setWidth 16 <<< n := by
  induction n with
  | zero => exact (BitVec.shiftLeft_zero _).symm
  | succ n ih =>
    have hbit : (b.setWidth 16 <<< n).getLsbD 15 = false := by
      have habove : 8 ≤ 15 - n := by omega
      simp [BitVec.getLsbD_of_ge b _ habove]
    rw [Function.iterate_succ_apply', ih (by omega), crcShift_of_getLsbD_eq_false hbit, BitVec.shiftLeft_add]

/-- Whatever follows the rule of the eight shifts step by step is what the shifts make of its start (R191). -/
theorem eq_iterate_crcShift {poly : Word16} {a : Nat → Word16} {m n : Nat} (hn : n ≤ m)
    (h : ∀ k < m, ((a k).getLsbD 15 = true → a (k + 1) = ((a k) <<< 1) ^^^ poly) ∧
      ((a k).getLsbD 15 = false → a (k + 1) = (a k) <<< 1)) :
    a n = (crcShift poly)^[n] (a 0) := by
  induction n with
  | zero => rfl
  | succ n ih =>
    obtain ⟨hset, hclear⟩ := h n hn
    rw [Function.iterate_succ_apply', ← ih (by omega)]
    cases hbit : (a n).getLsbD 15 with
    | true => rw [hset hbit, crcShift_of_getLsbD hbit]
    | false => rw [hclear hbit, crcShift_of_getLsbD_eq_false hbit]

/-- Settles O23: the byte enters by exclusive or, and each of the eight shifts is linear. -/
theorem crcStepIsLinear : Obligations.CrcStepIsLinear := by
  unfold Obligations.CrcStepIsLinear
  intro poly x y a b
  have hentry : (x ^^^ y) ^^^ ((a ^^^ b).setWidth 16 <<< 8) =
      (x ^^^ (a.setWidth 16 <<< 8)) ^^^ (y ^^^ (b.setWidth 16 <<< 8)) := by
    rw [BitVec.setWidth_xor, BitVec.shiftLeft_xor_distrib]
    ac_rfl
  rw [crcStep_eq_iterate, hentry, iterate_crcShift_xor, ← crcStep_eq_iterate, ← crcStep_eq_iterate]

/-! ## The residue of the CRC (R202 (b)) -/

theorem xor_highByte_shiftLeft (v : Word16) : v ^^^ ((highByte v).setWidth 16 <<< 8) = (lowByte v).setWidth 16 := by
  ext i hi
  by_cases hlow : i < 8
  · simp [highByte, lowByte, hlow, BitVec.getLsbD_eq_getElem hi]
  · have hback : 8 + (i - 8) = i := by omega
    have hbyte : i - 8 < 8 := by omega
    simp [highByte, lowByte, hlow, hback, hbyte, BitVec.getLsbD_eq_getElem hi]

/-- The high byte of the accumulator cancels itself, and the low byte moves up. -/
theorem crcStep_highByte (poly v : Word16) : crcStep poly v (highByte v) = (lowByte v).setWidth 16 <<< 8 := by
  rw [crcStep_eq_iterate, xor_highByte_shiftLeft, iterate_crcShift_setWidth poly _ le_rfl]

/-- A byte that stands alone in bits 15:8 cancels itself. -/
theorem crcStep_setWidth_shiftLeft (poly : Word16) (b : Byte) : crcStep poly (b.setWidth 16 <<< 8) b = 0#16 := by
  rw [crcStep_eq_iterate, BitVec.xor_self]
  exact Function.iterate_fixed (crcShift_zero poly) 8

/-- Settles O21: the first appended byte leaves the low byte of the CRC in bits 15:8, and the second cancels it. -/
theorem crcResidueIsZero : Obligations.CrcResidueIsZero := by
  unfold Obligations.CrcResidueIsZero
  intro c s
  rw [← highByte_eq_extract, ← lowByte_eq_extract]
  calc crc16 c (s ++ [highByte (crc16 c s), lowByte (crc16 c s)])
    _ = crcStep c.crcPoly (crcStep c.crcPoly (crc16 c s) (highByte (crc16 c s))) (lowByte (crc16 c s)) :=
      List.foldl_append
    _ = 0x0000#16 := by rw [crcStep_highByte, crcStep_setWidth_shiftLeft]

/-! ## The accumulator commands (R194 to R201) -/

/-- The state after CKSUPD (R195). -/
def State.afterCksupd (s : State) (imm : Byte) : State := State.answered { s with cksacc := s.cksacc + imm } 0x00#8

/-- The state after CRCUPD (R199). -/
def State.afterCrcupd (s : State) (imm : Byte) : State :=
  State.answered { s with crcacc := crcStep s.cfg.crcPoly s.crcacc imm } 0x00#8

section
variable (s : State) (imm : Byte)

theorem State.afterCksupd_cksacc : (s.afterCksupd imm).cksacc = s.cksacc + imm := rfl

theorem State.afterCrcupd_crcacc : (s.afterCrcupd imm).crcacc = crcStep s.cfg.crcPoly s.crcacc imm := rfl

theorem State.afterCrcupd_cfg : (s.afterCrcupd imm).cfg = s.cfg := rfl

theorem exec_cksinit : exec .cksinit s = .next (State.answered { s with cksacc := 0x00#8 } 0x00#8) := rfl

theorem exec_cksupd : exec (.cksupd imm) s = .next (s.afterCksupd imm) := rfl

theorem exec_cksget : exec .cksget s = .next (s.answered (-s.cksacc)) := by
  rw [← cksAnswer_eq_neg]
  rfl

theorem exec_cksbuf : exec .cksbuf s = .next
    (State.answered { s with cksacc := s.ibuf.foldl (· + ·) 0x00#8 } (-s.ibuf.foldl (· + ·) 0x00#8)) := by
  rw [foldl_add_eq_add_byteSum, BitVec.zero_add, ← cksAnswer_eq_neg]
  rfl

theorem exec_crcinit : exec .crcinit s = .next (State.answered { s with crcacc := s.cfg.crcInit } 0x00#8) := rfl

theorem exec_crcupd : exec (.crcupd imm) s = .next (s.afterCrcupd imm) := rfl

theorem exec_crcgetl : exec .crcgetl s = .next (s.answered (s.crcacc.extractLsb' 0 8)) := by
  rw [← lowByte_eq_extract]
  rfl

theorem exec_crcgeth : exec .crcgeth s = .next (s.answered (s.crcacc.extractLsb' 8 8)) := by
  rw [← highByte_eq_extract]
  rfl

theorem exec_crcbuf : exec .crcbuf s = .next
    (State.answered { s with crcacc := crc16 s.cfg s.ibuf } ((crc16 s.cfg s.ibuf).extractLsb' 0 8)) := by
  rw [← lowByte_eq_extract]
  rfl

end

/-- Settles O19: three rows of the opcode map, each with its equation. -/
theorem accumulatorReads : Obligations.AccumulatorReads := by
  unfold Obligations.AccumulatorReads
  refine ⟨?_, ?_, ?_, fun s => ⟨exec_cksget s, exec_crcgetl s, exec_crcgeth s⟩⟩
  all_goals exact fun _ => decodeCommand_append_eq_ok_iff.mpr rfl

/-- Settles O18: six rows of the opcode map, each with its equation; the checksum is its definition read modulo 256, and
`crc_step` is eight shifts (`eq_iterate_crcShift`). -/
theorem accumulatorCommands : Obligations.AccumulatorCommands := by
  unfold Obligations.AccumulatorCommands
  refine ⟨?_, ?_, ?_, ?_, ?_, ?_, fun bytes => ?checksum, fun c bytes => rfl, ?crcStep, ?commands⟩
  case checksum => rw [cksum, BitVec.toNat_ofNat, byteSum]
  case crcStep =>
    intro poly acc b a hstart hshift
    rw [crcStep_eq_iterate, ← hstart, eq_iterate_crcShift le_rfl hshift]
  case commands =>
    rintro s imm sum crc rfl rfl
    exact ⟨exec_cksinit s, exec_cksupd s imm, exec_cksbuf s, exec_crcinit s, exec_crcupd s imm, exec_crcbuf s⟩
  all_goals exact fun _ => decodeCommand_append_eq_ok_iff.mpr rfl

/-! ## Streaming (R202 (c)) -/

theorem runInstrs_cons_of_exec {i : Instr} {s t : State} (rest : List Instr) (h : exec i s = .next t) :
    runInstrs (i :: rest) s = runInstrs rest t := by
  rw [runInstrs, h]

/-- A command that always completes, given each byte in turn, folds what it does to the state over the bytes. -/
theorem runInstrs_map {f : Byte → Instr} {after : State → Byte → State}
    (h : ∀ s b, exec (f b) s = .next (after s b)) (bytes : List Byte) (s : State) :
    runInstrs (bytes.map f) s = .next (bytes.foldl after s) := by
  induction bytes generalizing s with
  | nil => rfl
  | cons b bytes ih => exact (runInstrs_cons_of_exec _ (h s b)).trans (ih _)

theorem foldl_afterCksupd_cksacc (bytes : List Byte) (s : State) :
    (bytes.foldl State.afterCksupd s).cksacc = bytes.foldl (· + ·) s.cksacc :=
  (List.foldl_hom State.cksacc State.afterCksupd_cksacc).symm

theorem foldl_afterCrcupd_crcacc (bytes : List Byte) (s : State) :
    (bytes.foldl State.afterCrcupd s).crcacc = bytes.foldl (crcStep s.cfg.crcPoly) s.crcacc := by
  induction bytes generalizing s with
  | nil => rfl
  | cons b bytes ih => rw [List.foldl_cons, ih, State.afterCrcupd_cfg, State.afterCrcupd_crcacc, List.foldl_cons]

/-- Settles O22: the initialising command sets the start of the fold that the update commands continue byte by byte. -/
theorem streamingEqualsBatch : Obligations.StreamingEqualsBatch := by
  unfold Obligations.StreamingEqualsBatch
  intro s bytes
  refine ⟨⟨_, (runInstrs_cons_of_exec _ (exec_crcinit s)).trans (runInstrs_map exec_crcupd bytes _), ?crc⟩,
    ⟨_, (runInstrs_cons_of_exec _ (exec_cksinit s)).trans (runInstrs_map exec_cksupd bytes _), ?checksum⟩⟩
  case crc => exact foldl_afterCrcupd_crcacc bytes _
  case checksum =>
    rw [foldl_afterCksupd_cksacc, foldl_add_eq_add_byteSum, cksum_eq_neg]
    exact congrArg Neg.neg (BitVec.zero_add _)

end Sys2Proof.Machine

/-! # The contexts and the handshake (43_secure_handshake.md R210 to R231) -/

namespace Sys2Proof.Machine

/-! ## What a command does to the selected context, case by case -/

/-- The state after SCSEL of an existing context (R211). -/
def State.select (k : Byte) (s : State) : State := State.ok k { s with ctx := k }

/-- The context after SCINIT with the nonce `na` (R214). -/
def Context.initiated (na : List Byte) (c : Context) : Context :=
  { c with na := na, role := .initiator, phase := .initAwaitReply, state := .negotiating }

/-- The context after SCCHAL with the nonces `na` and `nb` (R216). -/
def Context.challenged (na nb : List Byte) (c : Context) : Context :=
  { c with na := na, nb := nb, role := .responder, phase := .respAwaitVerify, state := .negotiating }

/-- The context after SCVRFY of a good response with the nonce `nb` (R218). -/
def Context.verified (nb : List Byte) (c : Context) : Context := { c with nb := nb, phase := .initAwaitAck }

section
variable {s : State}

theorem exec_scsel_of_le {imm : Byte} (h : s.cfg.nCtx ≤ imm.toNat) : exec (.scsel imm) s = .next (s.raise .ctx) :=
  if_pos h

theorem exec_scsel_of_lt {imm : Byte} (h : imm.toNat < s.cfg.nCtx) : exec (.scsel imm) s = .next (s.select imm) :=
  if_neg h.not_ge

theorem exec_sckey_of_not_inactive (h : s.context.state ≠ .inactive) : exec .sckey s = .next (s.raise .scState) :=
  if_pos h

theorem exec_sckey_of_ilen_ne (h : s.context.state = .inactive) (hlen : s.ilen ≠ s.cfg.keyLen) :
    exec .sckey s = .next (s.raise .arg) :=
  (if_neg (not_not.mpr h)).trans (if_pos hlen)

theorem exec_sckey_of_ilen_eq (h : s.context.state = .inactive) (hlen : s.ilen = s.cfg.keyLen) :
    exec .sckey s =
      .next (((s.setContext { s.context with psk := s.ibuf, pskValid := true }).setIbuf []).ok 0#8) :=
  (if_neg (not_not.mpr h)).trans (if_neg (not_not.mpr hlen))

theorem exec_scinit_of_not_inactive (h : s.context.state ≠ .inactive) : exec .scinit s = .next (s.raise .scState) :=
  if_pos h

theorem exec_scinit_of_no_secret (h : s.context.state = .inactive) (hpsk : s.context.pskValid = false) :
    exec .scinit s = .next (s.raise .scNokey) :=
  (if_neg (not_not.mpr h)).trans (if_pos hpsk)

theorem exec_scinit_of_inactive (h : s.context.state = .inactive) (hpsk : s.context.pskValid = true) :
    exec .scinit s = .next ((((s.afterDraw s.cfg.nonceLen).setContext
      (s.context.initiated (s.drawn s.cfg.nonceLen))).setObuf (s.drawn s.cfg.nonceLen)).ok
        (lenByte s.cfg.nonceLen)) :=
  (if_neg (not_not.mpr h)).trans (if_neg (ne_false_of_eq_true hpsk))

theorem exec_scchal_of_not_inactive (h : s.context.state ≠ .inactive) : exec .scchal s = .next (s.raise .scState) :=
  if_pos h

theorem exec_scchal_of_no_secret (h : s.context.state = .inactive) (hpsk : s.context.pskValid = false) :
    exec .scchal s = .next (s.raise .scNokey) :=
  (if_neg (not_not.mpr h)).trans (if_pos hpsk)

theorem exec_scchal_of_ilen_ne (h : s.context.state = .inactive) (hpsk : s.context.pskValid = true)
    (hlen : s.ilen ≠ s.cfg.nonceLen) : exec .scchal s = .next (s.raise .arg) :=
  (if_neg (not_not.mpr h)).trans ((if_neg (ne_false_of_eq_true hpsk)).trans (if_pos hlen))

theorem exec_scchal_of_inactive (h : s.context.state = .inactive) (hpsk : s.context.pskValid = true)
    (hlen : s.ilen = s.cfg.nonceLen) :
    exec .scchal s = .next ((((s.afterDraw s.cfg.nonceLen).setContext
      (s.context.challenged s.ibuf (s.drawn s.cfg.nonceLen))).setObuf
        (s.drawn s.cfg.nonceLen ++ s.suite.resp s.context.psk s.ibuf (s.drawn s.cfg.nonceLen))).ok
          (lenByte (s.cfg.nonceLen + s.cfg.verifLen))) :=
  (if_neg (not_not.mpr h)).trans ((if_neg (ne_false_of_eq_true hpsk)).trans (if_neg (not_not.mpr hlen)))

theorem exec_scvrfy_of_not_waits (h : ¬s.context.waits .initiator .initAwaitReply) :
    exec .scvrfy s = .next (s.raise .scState) :=
  if_pos h

theorem exec_scvrfy_of_ilen_ne (h : s.context.waits .initiator .initAwaitReply)
    (hlen : s.ilen ≠ s.cfg.nonceLen + s.cfg.verifLen) : exec .scvrfy s = .next (s.raise .arg) :=
  (if_neg (not_not.mpr h)).trans (if_pos hlen)

/-- A message M2 of the right lengths is taken apart, and the response decides (R218). -/
theorem exec_scvrfy_of_append {nb rv : List Byte} (h : s.context.waits .initiator .initAwaitReply)
    (hibuf : s.ibuf = nb ++ rv) (hnb : nb.length = s.cfg.nonceLen) (hrv : rv.length = s.cfg.verifLen) :
    exec .scvrfy s =
      if rv ≠ s.suite.resp s.context.psk s.context.na nb then
        .next ((s.setContext (Context.negFail { s.context with nb := nb })).raise .scVerify)
      else
        .next (((s.setContext (s.context.verified nb)).setObuf
          (s.suite.initv s.context.psk s.context.na nb)).ok (lenByte s.cfg.verifLen)) := by
  have hlen : s.ilen = s.cfg.nonceLen + s.cfg.verifLen := by rw [State.ilen, hibuf, List.length_append, hnb, hrv]
  have htake : s.ibuf.take s.cfg.nonceLen = nb := by rw [hibuf, List.take_left' hnb]
  have hdrop : s.ibuf.drop s.cfg.nonceLen = rv := by rw [hibuf, List.drop_left' hnb]
  refine (if_neg (not_not.mpr h)).trans ((if_neg (not_not.mpr hlen)).trans ?_)
  rw [htake, hdrop]
  rfl

theorem exec_scrvfy_of_not_waits (h : ¬s.context.waits .responder .respAwaitVerify) :
    exec .scrvfy s = .next (s.raise .scState) :=
  if_pos h

theorem exec_scrvfy_of_ilen_ne (h : s.context.waits .responder .respAwaitVerify) (hlen : s.ilen ≠ s.cfg.verifLen) :
    exec .scrvfy s = .next (s.raise .arg) :=
  (if_neg (not_not.mpr h)).trans (if_pos hlen)

theorem exec_scrvfy_of_ibuf_ne (h : s.context.waits .responder .respAwaitVerify) (hlen : s.ilen = s.cfg.verifLen)
    (hne : s.ibuf ≠ s.suite.initv s.context.psk s.context.na s.context.nb) :
    exec .scrvfy s = .next ((s.setContext s.context.negFail).raise .scVerify) :=
  (if_neg (not_not.mpr h)).trans ((if_neg (not_not.mpr hlen)).trans (if_pos hne))

theorem exec_scrvfy_of_ibuf_eq (h : s.context.waits .responder .respAwaitVerify) (hlen : s.ilen = s.cfg.verifLen)
    (heq : s.ibuf = s.suite.initv s.context.psk s.context.na s.context.nb) :
    exec .scrvfy s = .next ((s.setContext (s.context.activate s.suite)).ok 0#8) :=
  (if_neg (not_not.mpr h)).trans ((if_neg (not_not.mpr hlen)).trans (if_neg (not_not.mpr heq)))

theorem exec_scfin_of_not_waits {imm : Byte} (h : ¬s.context.waits .initiator .initAwaitAck) :
    exec (.scfin imm) s = .next (s.raise .scState) :=
  if_pos h

theorem exec_scfin_of_bad {imm : Byte} (h : s.context.waits .initiator .initAwaitAck) (himm : verdictOf imm = false) :
    exec (.scfin imm) s = .next ((s.setContext s.context.negFail).raise .scVerify) :=
  (if_neg (not_not.mpr h)).trans (if_neg (Bool.eq_false_iff.mp himm))

theorem exec_scfin_of_good {imm : Byte} (h : s.context.waits .initiator .initAwaitAck) (himm : verdictOf imm = true) :
    exec (.scfin imm) s = .next ((s.setContext (s.context.activate s.suite)).ok 0#8) :=
  (if_neg (not_not.mpr h)).trans (if_pos himm)

theorem exec_sctmo_of_not_negotiating (h : s.context.state ≠ .negotiating) :
    exec .sctmo s = .next (s.raise .scState) :=
  if_pos h

theorem exec_sctmo_of_negotiating (h : s.context.state = .negotiating) :
    exec .sctmo s = .next (((s.setContext s.context.negFail).setFlags flagSc).ok 0#8) :=
  if_neg (not_not.mpr h)

theorem exec_scretry_of_not_failed (h : s.context.state ≠ .failed) : exec .scretry s = .next (s.raise .scState) :=
  if_pos h

theorem exec_scretry_of_failed (h : s.context.state = .failed) :
    exec .scretry s = .next ((s.setContext { s.context.clearSession s.cfg with state := .inactive }).ok 0#8) :=
  if_neg (not_not.mpr h)

end

/-! ## SCSEL, SCSTAT, SCFAILS, SCKEY, SCCLR -/

/-- Settles O36: the index is checked against N_CTX. -/
theorem scselSelects : Obligations.ScselSelects := by
  unfold Obligations.ScselSelects
  exact ⟨commandI_of_decodeOpcode fun _ => rfl, fun s imm => ⟨exec_scsel_of_le, exec_scsel_of_lt⟩⟩

/-- The layout of the byte of SCSTAT (30_encoding.md R118), over the codes of its fields. -/
def statusByte (pskValid : BitVec 1) (phase : BitVec 2) (role : BitVec 1) (state : BitVec 2) : Byte :=
  pskValid.setWidth 8 <<< 5 ||| phase.setWidth 8 <<< 3 ||| role.setWidth 8 <<< 2 ||| state.setWidth 8

theorem scstatByte_eq_statusByte (c : Context) :
    scstatByte c = statusByte (BitVec.ofBool c.pskValid) c.phase.code c.role.code c.state.code := rfl

/-- The fields of the layout do not overlap: each is read back, for each of the 64 combinations. -/
theorem statusByte_fields : ∀ (pskValid : BitVec 1) (phase : BitVec 2) (role : BitVec 1) (state : BitVec 2),
    (statusByte pskValid phase role state).extractLsb' 0 2 = state ∧
    (statusByte pskValid phase role state).getLsbD 2 = role.getLsbD 0 ∧
    (statusByte pskValid phase role state).extractLsb' 3 2 = phase ∧
    (statusByte pskValid phase role state).getLsbD 5 = pskValid.getLsbD 0 ∧
    statusByte pskValid phase role state >>> 6 = 0#8 := by
  decide

theorem Role.getLsbD_code (r : Role) : r.code.getLsbD 0 = true ↔ r = .responder := by
  cases r <;> simp [Role.code]

/-- Settles O37: SCSTAT answers the layout of `statusByte`, whose fields are those of the context. -/
theorem contextStatusCommands : Obligations.ContextStatusCommands := by
  unfold Obligations.ContextStatusCommands
  refine ⟨fun _ => decodeCommand_append_eq_ok_iff.mpr rfl, fun _ => decodeCommand_append_eq_ok_iff.mpr rfl,
    fun s c hc => ?_⟩
  obtain rfl := State.context_of_selected hc
  refine ⟨rfl, scstatByte s.context, rfl, ?_⟩
  rw [scstatByte_eq_statusByte, ← Role.getLsbD_code]
  obtain ⟨hstate, hrole, hphase, hpsk, hreserved⟩ := statusByte_fields (BitVec.ofBool s.context.pskValid)
    s.context.phase.code s.context.role.code s.context.state.code
  refine ⟨hstate, Bool.eq_iff_iff.mp hrole, hphase, ?_, hreserved⟩
  rw [hpsk]
  simp

/-- Settles O38: the state is checked, then the length, and only a secret that passes both is written. -/
theorem sckeyLoadsSecret : Obligations.SckeyLoadsSecret := by
  unfold Obligations.SckeyLoadsSecret
  refine ⟨fun _ => decodeCommand_append_eq_ok_iff.mpr rfl, fun s c hc => ?_⟩
  obtain rfl := State.context_of_selected hc
  exact ⟨exec_sckey_of_not_inactive, exec_sckey_of_ilen_ne, exec_sckey_of_ilen_eq⟩

/-- Settles O39: SCCLR looks at nothing and writes `Context.reset`. -/
theorem scclrErasesContext : Obligations.ScclrErasesContext := by
  unfold Obligations.ScclrErasesContext
  exact ⟨fun _ => decodeCommand_append_eq_ok_iff.mpr rfl, fun s c hc => rfl⟩

/-! ## The commands of the handshake -/

/-- Settles O40: the nonce is what `draw` answers, which is what the entropy input has ready, as far as that goes
(`State.drawn_eq_take`). -/
theorem scinitStartsHandshake : Obligations.ScinitStartsHandshake := by
  unfold Obligations.ScinitStartsHandshake
  refine ⟨fun _ => decodeCommand_append_eq_ok_iff.mpr rfl, fun s c hc => ?_⟩
  obtain rfl := State.context_of_selected hc
  refine ⟨exec_scinit_of_not_inactive, exec_scinit_of_no_secret, fun hstate hpsk => ?_⟩
  refine ⟨s.drawn s.cfg.nonceLen, (s.afterDraw s.cfg.nonceLen).env.draws, State.drawn_length ..,
    State.drawn_eq_take _ s, ?_⟩
  rw [← lenByte_eq_ofNat]
  exact exec_scinit_of_inactive hstate hpsk

/-- Settles O41: as for SCINIT, the nonce is what `draw` answers. -/
theorem scchalAnswersChallenge : Obligations.ScchalAnswersChallenge := by
  unfold Obligations.ScchalAnswersChallenge
  refine ⟨fun _ => decodeCommand_append_eq_ok_iff.mpr rfl, fun s c hc => ?_⟩
  obtain rfl := State.context_of_selected hc
  refine ⟨exec_scchal_of_not_inactive, exec_scchal_of_no_secret, exec_scchal_of_ilen_ne, fun hstate hpsk hlen => ?_⟩
  refine ⟨s.drawn s.cfg.nonceLen, (s.afterDraw s.cfg.nonceLen).env.draws, State.drawn_length ..,
    State.drawn_eq_take _ s, ?_⟩
  rw [← lenByte_eq_ofNat]
  exact exec_scchal_of_inactive hstate hpsk hlen

/-- Settles O42: a message of the right length is a nonce and a response (`exec_scvrfy_of_append`). -/
theorem scvrfyChecksResponse : Obligations.ScvrfyChecksResponse := by
  unfold Obligations.ScvrfyChecksResponse
  refine ⟨fun _ => decodeCommand_append_eq_ok_iff.mpr rfl, fun s c hc => ?_⟩
  obtain rfl := State.context_of_selected hc
  refine ⟨exec_scvrfy_of_not_waits, fun hstate hrole hphase => exec_scvrfy_of_ilen_ne ⟨hstate, hrole, hphase⟩,
    fun hstate hrole hphase nb rv hibuf hnb hrv => ?_⟩
  have hexec := exec_scvrfy_of_append ⟨hstate, hrole, hphase⟩ hibuf hnb hrv
  refine ⟨fun hbad => hexec.trans (if_pos hbad), fun hgood => ?_⟩
  rw [← lenByte_eq_ofNat]
  exact hexec.trans (if_neg (not_not.mpr hgood))

/-- Settles O43: the state, the length and the value are checked in this order. -/
theorem scrvfyActivatesResponder : Obligations.ScrvfyActivatesResponder := by
  unfold Obligations.ScrvfyActivatesResponder
  refine ⟨fun _ => decodeCommand_append_eq_ok_iff.mpr rfl, fun s c hc => ?_⟩
  obtain rfl := State.context_of_selected hc
  exact ⟨exec_scrvfy_of_not_waits, fun hstate hrole hphase => exec_scrvfy_of_ilen_ne ⟨hstate, hrole, hphase⟩,
    fun hstate hrole hphase hlen => ⟨exec_scrvfy_of_ibuf_ne ⟨hstate, hrole, hphase⟩ hlen,
      exec_scrvfy_of_ibuf_eq ⟨hstate, hrole, hphase⟩ hlen⟩⟩

/-- Settles O44: the verdict is bit 0 of the operand (`verdictOf`). -/
theorem scfinTakesVerdict : Obligations.ScfinTakesVerdict := by
  unfold Obligations.ScfinTakesVerdict
  refine ⟨commandI_of_decodeOpcode fun _ => rfl, fun s c imm hc => ?_⟩
  obtain rfl := State.context_of_selected hc
  exact ⟨exec_scfin_of_not_waits, fun hstate hrole hphase => exec_scfin_of_bad ⟨hstate, hrole, hphase⟩,
    fun hstate hrole hphase => exec_scfin_of_good ⟨hstate, hrole, hphase⟩⟩

/-- Settles O45: each of the two commands has one check, of the state. -/
theorem timeoutAndRetry : Obligations.TimeoutAndRetry := by
  unfold Obligations.TimeoutAndRetry
  refine ⟨fun _ => decodeCommand_append_eq_ok_iff.mpr rfl, fun _ => decodeCommand_append_eq_ok_iff.mpr rfl,
    fun s c hc => ?_⟩
  obtain rfl := State.context_of_selected hc
  exact ⟨exec_sctmo_of_not_negotiating, exec_sctmo_of_negotiating, exec_scretry_of_not_failed,
    exec_scretry_of_failed⟩

/-! ## The table of transitions (R210) -/

/-- What an instruction has done to the context at one index: nothing, or it was RESET, or this context was the selected
one and is written in one of the ways of `ContextStep` (10_state.md R52). -/
theorem exec_context_cases {i : Instr} {s t : State} {k : Nat} {c d : Context} (h : exec i s = .next t)
    (hc : s.sc[k]? = some c) (hd : t.sc[k]? = some d) :
    d = c ∨ (i = .reset ∧ d = Context.reset s.cfg) ∨ (k = s.ctx.toNat ∧ ContextStep s c i d) := by
  obtain e | ⟨hi, e⟩ | ⟨d', hstep, e⟩ := exec_contexts h <;> rw [e] at hd
  · exact .inl (Option.some.inj (hd.symm.trans hc))
  · exact .inr (.inl ⟨hi, List.eq_of_mem_replicate (List.mem_of_getElem? hd)⟩)
  · by_cases hk : k = s.ctx.toNat
    · subst hk
      rw [State.context_of_selected hc] at hstep
      obtain ⟨hlt, -⟩ := List.getElem?_eq_some_iff.mp hc
      rw [List.getElem?_set_self hlt] at hd
      obtain rfl := Option.some.inj hd
      exact .inr (.inr ⟨rfl, hstep⟩)
    · rw [List.getElem?_set_ne (Ne.symm hk)] at hd
      exact .inl (Option.some.inj (hd.symm.trans hc))

/-- Settles O57: each way of writing a context (`ContextStep`) is a row of the table, or keeps state, phase and role. -/
theorem contextTransitions : Obligations.ContextTransitions := by
  unfold Obligations.ContextTransitions
  intro i s t k c d h hc hd
  obtain rfl | ⟨rfl, rfl⟩ | ⟨-, hstep⟩ := exec_context_cases h hc hd
  · exact .inl ⟨rfl, rfl, rfl⟩
  · simp [Context.reset]
  · cases hstep with
    | sckey | scwrap | scunwrap => exact .inl ⟨rfl, rfl, rfl⟩
    | scclr => simp [Context.reset]
    | scinit hstate | scchal hstate | sctmo hstate | scretry hstate => simp [hstate]
    | scvrfy hwaits | scvrfyFail hwaits | scrvfy hwaits | scrvfyFail hwaits => simp [hwaits]
    | scfin imm hwaits himm | scfinFail imm hwaits himm => simpa [hwaits, verdictOf] using himm
    | scunwrapFail hstate =>
      obtain ⟨-, e⟩ | ⟨hlimit, e⟩ := c.scFail_cases s.cfg <;> rw [e]
      · exact .inl ⟨rfl, rfl, rfl⟩
      · simp [hstate, hlimit]

/-! ## A handshake between two contexts (R231) -/

theorem runInstrs_append {l : List Instr} {s t : State} (h : runInstrs l s = .next t) (rest : List Instr) :
    runInstrs (l ++ rest) s = runInstrs rest t := by
  induction l generalizing s with
  | nil => cases h; rfl
  | cons i l ih =>
    rw [List.cons_append, runInstrs]
    rw [runInstrs] at h
    split at h
    next u hu => exact ih h
    all_goals cases h

/-- The two ends of a handshake on one block: context `k` is `c` and context `j` is `d`, in a state of the invariant.
The configuration is `cfg` and EFLAGS is `flags` throughout, for no command of a handshake that goes well raises. -/
structure Ends (cfg : Cfg) (flags : Byte) (k j : Byte) (c d : Context) (s : State) : Prop where
  cfg_eq : s.cfg = cfg
  eflags_eq : s.eflags = flags
  inv : s.inv
  ne : k ≠ j
  left : s.sc[k.toNat]? = some c
  right : s.sc[j.toNat]? = some d

namespace Ends

variable {cfg : Cfg} {flags k j : Byte} {c c' d : Context} {s u : State}

theorem symm (h : Ends cfg flags k j c d s) : Ends cfg flags j k d c s :=
  ⟨h.cfg_eq, h.eflags_eq, h.inv, h.ne.symm, h.right, h.left⟩

theorem lawful (h : Ends cfg flags k j c d s) : (suiteOf cfg).Lawful cfg := by
  obtain ⟨hvalid, -⟩ := h.inv
  exact suiteOf_lawful (h.cfg_eq ▸ hvalid)

/-- SCSEL makes the left end the selected context. -/
theorem exec_scsel (h : Ends cfg flags k j c d s) :
    exec (.scsel k) s = .next (s.select k) ∧ (s.select k).context = c := by
  obtain ⟨-, -, -, hlen, -⟩ := h.inv
  obtain ⟨hlt, -⟩ := List.getElem?_eq_some_iff.mp h.left
  exact ⟨exec_scsel_of_lt (hlen ▸ hlt), State.context_of_selected h.left⟩

/-- One end's turn: SCSEL, and a command of the handshake that writes the selected context. -/
theorem turn {i : Instr} (h : Ends cfg flags k j c d s) (hexec : exec i (s.select k) = .next u)
    (heflags : u.eflags = s.eflags) (hsc : u.sc = s.sc.set k.toNat c') :
    runInstrs [.scsel k, i] s = .next u ∧ Ends cfg flags k j c' d u := by
  obtain ⟨hsel, -⟩ := h.exec_scsel
  obtain ⟨hlt, -⟩ := List.getElem?_eq_some_iff.mp h.left
  refine ⟨(runInstrs_cons_of_exec _ hsel).trans (runInstrs_cons_of_exec _ hexec), (exec_cfg hexec).trans h.cfg_eq,
    heflags.trans h.eflags_eq, exec_inv hexec (exec_inv hsel h.inv), h.ne, ?_, ?_⟩
  · rw [hsc, List.getElem?_set_self hlt]
  · rw [hsc, List.getElem?_set_ne (mt BitVec.eq_of_toNat_eq h.ne), h.right]

/-- One end's turn, and XFER, which moves the message it answers to where the other end takes it from. -/
theorem turn_xfer {i : Instr} (h : Ends cfg flags k j c d s) (hexec : exec i (s.select k) = .next u)
    (heflags : u.eflags = s.eflags) (hsc : u.sc = s.sc.set k.toNat c') :
    ∃ t, runInstrs [.scsel k, i, .xfer] s = .next t ∧ Ends cfg flags k j c' d t ∧ t.ibuf = u.obuf := by
  obtain ⟨hrun, hu⟩ := h.turn hexec heflags hsc
  have hxfer : exec .xfer u = .next ((u.setIbuf u.obuf).ok (lenByte u.olen)) := rfl
  exact ⟨_, (runInstrs_append hrun [.xfer]).trans (runInstrs_cons_of_exec [] hxfer),
    ⟨hu.cfg_eq, hu.eflags_eq, exec_inv hxfer hu.inv, hu.ne, hu.left, hu.right⟩, rfl⟩

/-- M1: the initiator draws its nonce (R214). -/
theorem scinit (h : Ends cfg flags k j c d s) (hstate : c.state = .inactive) (hpsk : c.pskValid = true) :
    ∃ t na, runInstrs [.scsel k, .scinit, .xfer] s = .next t ∧ Ends cfg flags k j (c.initiated na) d t ∧
      t.ibuf = na ∧ na.length = cfg.nonceLen := by
  obtain ⟨-, rfl⟩ := h.exec_scsel
  obtain ⟨t, hrun, hends, hibuf⟩ := h.turn_xfer (exec_scinit_of_inactive hstate hpsk) rfl rfl
  exact ⟨t, _, hrun, hends, hibuf, h.cfg_eq ▸ State.drawn_length ..⟩

/-- M2: the responder draws its nonce and answers the challenge (R216). -/
theorem scchal (h : Ends cfg flags k j c d s) (hstate : c.state = .inactive) (hpsk : c.pskValid = true)
    (hlen : s.ibuf.length = cfg.nonceLen) :
    ∃ t nb, runInstrs [.scsel k, .scchal, .xfer] s = .next t ∧ Ends cfg flags k j (c.challenged s.ibuf nb) d t ∧
      t.ibuf = nb ++ (suiteOf cfg).resp c.psk s.ibuf nb ∧ nb.length = cfg.nonceLen := by
  obtain ⟨-, rfl⟩ := h.exec_scsel
  obtain rfl := h.cfg_eq
  obtain ⟨t, hrun, hends, hibuf⟩ := h.turn_xfer (exec_scchal_of_inactive hstate hpsk hlen) rfl rfl
  exact ⟨t, _, hrun, hends, hibuf, State.drawn_length ..⟩

/-- M3: the initiator accepts the response and proves that it has the secret (R218). -/
theorem scvrfy {nb : List Byte} (h : Ends cfg flags k j c d s) (hwaits : c.waits .initiator .initAwaitReply)
    (hibuf : s.ibuf = nb ++ (suiteOf cfg).resp c.psk c.na nb) (hnb : nb.length = cfg.nonceLen) :
    ∃ t, runInstrs [.scsel k, .scvrfy, .xfer] s = .next t ∧ Ends cfg flags k j (c.verified nb) d t ∧
      t.ibuf = (suiteOf cfg).initv c.psk c.na nb := by
  obtain ⟨-, rfl⟩ := h.exec_scsel
  obtain rfl := h.cfg_eq
  have hexec := exec_scvrfy_of_append (s := s.select k) hwaits hibuf hnb (h.lawful.resp_length ..)
  exact h.turn_xfer (hexec.trans (if_neg (not_not.mpr rfl))) rfl rfl

/-- The responder accepts the initiator's value and is Active (R220). -/
theorem scrvfy (h : Ends cfg flags k j c d s) (hwaits : c.waits .responder .respAwaitVerify)
    (hibuf : s.ibuf = (suiteOf cfg).initv c.psk c.na c.nb) :
    ∃ t, runInstrs [.scsel k, .scrvfy] s = .next t ∧ Ends cfg flags k j (c.activate (suiteOf cfg)) d t := by
  obtain ⟨-, rfl⟩ := h.exec_scsel
  obtain rfl := h.cfg_eq
  have hlen : s.ibuf.length = s.cfg.verifLen := hibuf ▸ h.lawful.initv_length ..
  exact ⟨_, h.turn (exec_scrvfy_of_ibuf_eq hwaits hlen hibuf) rfl rfl⟩

/-- M4: the initiator takes the good verdict and is Active (R222). -/
theorem scfin {imm : Byte} (h : Ends cfg flags k j c d s) (hwaits : c.waits .initiator .initAwaitAck)
    (himm : verdictOf imm = true) :
    ∃ t, runInstrs [.scsel k, .scfin imm] s = .next t ∧ Ends cfg flags k j (c.activate (suiteOf cfg)) d t ∧
      t.env.resp = some 0x0000#16 := by
  obtain ⟨-, rfl⟩ := h.exec_scsel
  obtain rfl := h.cfg_eq
  obtain ⟨hrun, hends⟩ := h.turn (exec_scfin_of_good hwaits himm) rfl rfl
  exact ⟨_, hrun, hends, rfl⟩

end Ends

/-- Settles O51: the five turns, one after the other, each end reading what the other has written. Both ends then have
the same secret and the same two nonces, so they derive the same keys. -/
theorem handshakeReachesActive : Obligations.HandshakeReachesActive := by
  unfold Obligations.HandshakeReachesActive
  intro s i r ci cr hinv hne hi hr histate hrstate hivalid hrvalid hpsk
  have h0 : Ends s.cfg s.eflags i r ci cr s := ⟨rfl, rfl, hinv, hne, hi, hr⟩
  obtain ⟨s1, na, hrun1, h1, rfl, hna⟩ := h0.scinit histate hivalid
  obtain ⟨s2, nb, hrun2, h2, hm2, hnb⟩ := h1.symm.scchal hrstate hrvalid hna
  obtain ⟨s3, hrun3, h3, hm3⟩ := h2.symm.scvrfy ⟨rfl, rfl, rfl⟩ (hpsk ▸ hm2) hnb
  obtain ⟨s4, hrun4, h4⟩ := h3.symm.scrvfy ⟨rfl, rfl, rfl⟩ (hpsk ▸ hm3)
  obtain ⟨s5, hrun5, h5, hresp⟩ := h4.symm.scfin (imm := 0x01#8) ⟨rfl, rfl, rfl⟩ rfl
  have hrun := (runInstrs_append hrun1 _).trans <| (runInstrs_append hrun2 _).trans <|
    (runInstrs_append hrun3 _).trans <| (runInstrs_append hrun4 _).trans hrun5
  refine ⟨s5, _, _, hrun, h5.eflags_eq, hresp, h5.left, h5.right, rfl, rfl, ?_, ?_, rfl, rfl, rfl, rfl, rfl, rfl⟩
  · exact congrArg (fun psk => (suiteOf s.cfg).kdfEnc psk s1.ibuf nb) hpsk
  · exact congrArg (fun psk => (suiteOf s.cfg).kdfMac psk s1.ibuf nb) hpsk

end Sys2Proof.Machine

/-! # The transport (44_secure_transport.md R240 to R249) -/

namespace Sys2Proof.Machine

/-! ## SCWRAP and SCADMIT, case by case -/

/-- The context after SCWRAP, which counts the message (R241). -/
def Context.counted (c : Context) : Context := { c with seqTx := c.seqTx + 1#32 }

/-- What SCWRAP makes of IBUF: the region of the next number, the ciphertext and the tag (R241). -/
def State.protectedRegion (s : State) : List Byte :=
  sprBytes s.context.counted.seqTx (s.suite.enc s.context.kenc s.context.dirTx s.context.counted.seqTx s.ibuf)
    (s.suite.mac s.context.kmac s.txaddr s.txctrl s.context.counted.seqTx s.ibuf)

/-- The state after SCWRAP answers OK (R241). -/
def State.wrapped (s : State) : State :=
  ((s.setContext s.context.counted).setObuf s.protectedRegion).ok (lenByte (s.ilen + secOvh s.cfg))

section
variable {s : State}

theorem exec_scwrap_of_not_active (h : s.context.state ≠ .active) : exec .scwrap s = .next (s.raise .scState) :=
  if_pos h

theorem exec_scwrap_of_no_room (h : s.context.state = .active) (hroom : s.cfg.bufSize < s.ilen + secOvh s.cfg) :
    exec .scwrap s = .next (s.raise .overflow) :=
  (if_neg (not_not.mpr h)).trans (if_pos hroom)

theorem exec_scwrap_of_exhausted (h : s.context.state = .active) (hroom : s.ilen + secOvh s.cfg ≤ s.cfg.bufSize)
    (hseq : s.context.seqTx = 0xFFFFFFFF#32) : exec .scwrap s = .next (s.raise .scExhausted) :=
  (if_neg (not_not.mpr h)).trans ((if_neg hroom.not_gt).trans (if_pos hseq))

theorem exec_scwrap_of_room (h : s.context.state = .active) (hroom : s.ilen + secOvh s.cfg ≤ s.cfg.bufSize)
    (hseq : s.context.seqTx ≠ 0xFFFFFFFF#32) : exec .scwrap s = .next s.wrapped :=
  (if_neg (not_not.mpr h)).trans ((if_neg hroom.not_gt).trans (if_neg hseq))

/-- SCWRAP raises a status, or counts and protects the message. -/
theorem exec_scwrap_cases (s : State) :
    (∃ st, st ≠ .ok ∧ exec .scwrap s = .next (s.raise st)) ∨
    (s.context.state = .active ∧ s.context.seqTx ≠ 0xFFFFFFFF#32 ∧ exec .scwrap s = .next s.wrapped) := by
  by_cases hactive : s.context.state = .active
  case neg => exact .inl ⟨.scState, nofun, exec_scwrap_of_not_active hactive⟩
  obtain hroom | hroom := Nat.lt_or_ge s.cfg.bufSize (s.ilen + secOvh s.cfg)
  · exact .inl ⟨.overflow, nofun, exec_scwrap_of_no_room hactive hroom⟩
  by_cases hseq : s.context.seqTx = 0xFFFFFFFF#32
  · exact .inl ⟨.scExhausted, nofun, exec_scwrap_of_exhausted hactive hroom hseq⟩
  · exact .inr ⟨hactive, hseq, exec_scwrap_of_room hactive hroom hseq⟩

theorem exec_scadmit_of_refused (hsec : controlSec s.rxctrl = true) (hneg : s.context.state ≠ .negotiating)
    (hactive : s.context.state ≠ .active) : exec .scadmit s = .next (s.raise .scNoctx) :=
  if_pos ⟨hsec, hneg, hactive⟩

theorem exec_scadmit_of_context (hsec : controlSec s.rxctrl = true)
    (h : s.context.state = .negotiating ∨ s.context.state = .active) : exec .scadmit s = .next (s.ok 1#8) := by
  have hopen : ¬(controlSec s.rxctrl = true ∧ s.context.state ≠ .negotiating ∧ s.context.state ≠ .active) :=
    fun ⟨_, hneg, hactive⟩ => h.elim hneg hactive
  refine (if_neg hopen).trans ?_
  rw [if_pos hsec]

theorem exec_scadmit_of_plain (hsec : controlSec s.rxctrl = false) : exec .scadmit s = .next (s.ok 0#8) := by
  have hplain : ¬controlSec s.rxctrl = true := Bool.eq_false_iff.mp hsec
  refine (if_neg fun ⟨h, _⟩ => hplain h).trans ?_
  rw [if_neg hplain]

end

/-! ## SCUNWRAP, case by case -/

/-- The context after a message with the number `seq` is accepted (R244). -/
def Context.accepted (seq : Word32) (c : Context) : Context := { c with seqRx := seq, fails := 0#8 }

/-- What SCUNWRAP deciphers out of sight (R244, R245). -/
def State.deciphered (s : State) : List Byte :=
  s.suite.dec s.context.kenc s.context.dirRx (sprSeq s.ibuf) (sprCt s.cfg s.ibuf)

/-- The tag of the region in IBUF is the one of the deciphered message (R244). -/
def State.verifies (s : State) : Prop :=
  s.suite.mac s.context.kmac s.rxaddr s.rxctrl (sprSeq s.ibuf) s.deciphered = sprTag s.cfg s.ibuf

/-- The state after SCUNWRAP releases the message (R244). -/
def State.released (s : State) : State :=
  ((s.setContext (s.context.accepted (sprSeq s.ibuf))).setObuf s.deciphered).ok (lenByte (s.ilen - secOvh s.cfg))

section
variable {s : State}

theorem exec_scunwrap_of_not_active (h : s.context.state ≠ .active) : exec .scunwrap s = .next (s.raise .scState) :=
  if_pos h

theorem exec_scunwrap_of_short (h : s.context.state = .active) (hlen : s.ilen < secOvh s.cfg) :
    exec .scunwrap s = .next (s.unwrapFail .scFormat) :=
  (if_neg (not_not.mpr h)).trans (if_pos hlen)

theorem exec_scunwrap_of_seq_le (h : s.context.state = .active) (hlen : secOvh s.cfg ≤ s.ilen)
    (hseq : sprSeq s.ibuf ≤ s.context.seqRx) : exec .scunwrap s = .next (s.unwrapFail .scSeq) :=
  (if_neg (not_not.mpr h)).trans ((if_neg hlen.not_gt).trans (if_pos hseq))

theorem exec_scunwrap_of_not_verifies (h : s.context.state = .active) (hlen : secOvh s.cfg ≤ s.ilen)
    (hseq : s.context.seqRx < sprSeq s.ibuf) (htag : ¬s.verifies) :
    exec .scunwrap s = .next (s.unwrapFail .scTag) :=
  (if_neg (not_not.mpr h)).trans ((if_neg hlen.not_gt).trans ((if_neg (BitVec.not_le.mpr hseq)).trans (if_pos htag)))

theorem exec_scunwrap_of_verifies (h : s.context.state = .active) (hlen : secOvh s.cfg ≤ s.ilen)
    (hseq : s.context.seqRx < sprSeq s.ibuf) (htag : s.verifies) : exec .scunwrap s = .next s.released :=
  (if_neg (not_not.mpr h)).trans
    ((if_neg hlen.not_gt).trans ((if_neg (BitVec.not_le.mpr hseq)).trans (if_neg (not_not.mpr htag))))

/-- SCUNWRAP raises a status with nothing changed, or counts a failure, or releases a message with a new number. -/
theorem exec_scunwrap_cases (s : State) :
    (∃ st, st ≠ .ok ∧ exec .scunwrap s = .next (s.raise st)) ∨
    (∃ st, st ≠ .ok ∧ exec .scunwrap s = .next (s.unwrapFail st)) ∨
    (s.context.state = .active ∧ secOvh s.cfg ≤ s.ilen ∧ s.context.seqRx < sprSeq s.ibuf ∧
      exec .scunwrap s = .next s.released) := by
  by_cases hactive : s.context.state = .active
  case neg => exact .inl ⟨.scState, nofun, exec_scunwrap_of_not_active hactive⟩
  obtain hlen | hlen := Nat.lt_or_ge s.ilen (secOvh s.cfg)
  · exact .inr (.inl ⟨.scFormat, nofun, exec_scunwrap_of_short hactive hlen⟩)
  by_cases hseq : sprSeq s.ibuf ≤ s.context.seqRx
  · exact .inr (.inl ⟨.scSeq, nofun, exec_scunwrap_of_seq_le hactive hlen hseq⟩)
  have hnew := BitVec.not_le.mp hseq
  by_cases htag : s.verifies
  · exact .inr (.inr ⟨hactive, hlen, hnew, exec_scunwrap_of_verifies hactive hlen hnew htag⟩)
  · exact .inr (.inl ⟨.scTag, nofun, exec_scunwrap_of_not_verifies hactive hlen hnew htag⟩)

end

/-! ### A region in IBUF -/

/-- `le32(from_le32(q)) = q` (00_scope.md R10). -/
theorem le32_append (q0 q1 q2 q3 : Byte) : le32 (q3 ++ q2 ++ q1 ++ q0) = [q0, q1, q2, q3] := by
  have := q0.isLt
  have := q1.isLt
  have := q2.isLt
  have := q3.isLt
  simp only [le32, List.cons.injEq, and_true]
  refine ⟨?_, ?_, ?_, ?_⟩ <;> apply BitVec.eq_of_toNat_eq <;>
    simp only [BitVec.toNat_setWidth, BitVec.toNat_ushiftRight, toNat_append32, Nat.shiftRight_eq_div_pow] <;> omega

section
variable {s : State} {seq : Word32} {ct tag : List Byte} (hibuf : s.ibuf = sprBytes seq ct tag)
include hibuf

theorem State.sprSeq_ibuf : sprSeq s.ibuf = seq := by rw [hibuf, sprSeq_sprBytes]

variable (htag : tag.length = s.cfg.tagLen)
include htag

theorem State.ilen_of_sprBytes : s.ilen = ct.length + secOvh s.cfg := by
  rw [State.ilen, hibuf, sprBytes_length, htag, secOvh, Cfg.seqLen]
  omega

theorem State.secOvh_le_ilen : secOvh s.cfg ≤ s.ilen :=
  State.ilen_of_sprBytes hibuf htag ▸ Nat.le_add_left ..

theorem State.deciphered_of_sprBytes : s.deciphered = s.suite.dec s.context.kenc s.context.dirRx seq ct := by
  rw [State.deciphered, State.sprSeq_ibuf hibuf, hibuf, sprCt_sprBytes _ _ _ _ htag]

theorem State.verifies_iff_of_sprBytes :
    s.verifies ↔ s.suite.mac s.context.kmac s.rxaddr s.rxctrl seq s.deciphered = tag := by
  rw [State.verifies, State.sprSeq_ibuf hibuf, hibuf, sprTag_sprBytes _ _ _ _ htag]

theorem State.released_of_sprBytes :
    s.released = ((s.setContext (s.context.accepted seq)).setObuf s.deciphered).ok (lenByte ct.length) := by
  rw [State.released, State.sprSeq_ibuf hibuf, State.ilen_of_sprBytes hibuf htag, Nat.add_sub_cancel]

end

/-! ## SCWRAP, SCUNWRAP, SCADMIT -/

/-- Settles O46: the state, the room and the counter are checked in this order. -/
theorem scwrapProtects : Obligations.ScwrapProtects := by
  unfold Obligations.ScwrapProtects
  refine ⟨fun _ => decodeCommand_append_eq_ok_iff.mpr rfl, fun s c hc => ?_⟩
  obtain rfl := State.context_of_selected hc
  refine ⟨exec_scwrap_of_not_active, exec_scwrap_of_no_room, exec_scwrap_of_exhausted, ?_⟩
  rintro hactive hroom hseq seq rfl
  rw [← lenByte_eq_ofNat, ← le32_eq_extract, ← Context.dirTx_eq]
  exact exec_scwrap_of_room hactive hroom hseq

/-- Settles O47: the checks in their order, on the region that the bytes of IBUF are. -/
theorem scunwrapAdmitsOnlyVerified : Obligations.ScunwrapAdmitsOnlyVerified := by
  unfold Obligations.ScunwrapAdmitsOnlyVerified
  refine ⟨fun _ => decodeCommand_append_eq_ok_iff.mpr rfl, fun s c hc => ?_⟩
  obtain rfl := State.context_of_selected hc
  have hfail {st : Status} (h : exec .scunwrap s = .next (s.unwrapFail st)) :
      ∃ d, ScFailed s.cfg s.context d ∧ exec .scunwrap s = .next ((s.withContext d).raised st.code st.flag) :=
    ⟨_, s.context.scFail_scFailed s.cfg, h⟩
  refine ⟨exec_scunwrap_of_not_active, fun hactive hshort => hfail (exec_scunwrap_of_short hactive hshort), ?_⟩
  rintro hactive q0 q1 q2 q3 ct tag pt seq hbytes htag rfl hpt
  have hibuf : s.ibuf = sprBytes (q3 ++ q2 ++ q1 ++ q0) ct tag := by rw [hbytes, sprBytes, le32_append]; rfl
  have hseq := State.sprSeq_ibuf hibuf
  have hlen := State.secOvh_le_ilen hibuf htag
  have hverifies := State.verifies_iff_of_sprBytes hibuf htag
  obtain rfl : pt = s.deciphered := by
    rw [hpt, ← Context.dirRx_eq, State.deciphered_of_sprBytes hibuf htag]
    rfl
  refine ⟨fun hold => hfail (exec_scunwrap_of_seq_le hactive hlen (hseq ▸ hold)), fun hnew hbad => ?_,
    fun hnew hgood => ?_⟩
  · exact hfail (exec_scunwrap_of_not_verifies hactive hlen (hseq ▸ hnew) (mt hverifies.mp hbad))
  · rw [exec_scunwrap_of_verifies hactive hlen (hseq ▸ hnew) (hverifies.mpr hgood),
      State.released_of_sprBytes hibuf htag, lenByte_eq_ofNat]
    rfl

/-- Settles O48: the secure flag is bit 3 of RXCTRL (`controlSec`), and without it the context is not looked at. -/
theorem scadmitRejectsSecureWithoutContext : Obligations.ScadmitRejectsSecureWithoutContext := by
  unfold Obligations.ScadmitRejectsSecureWithoutContext
  refine ⟨fun _ => decodeCommand_append_eq_ok_iff.mpr rfl, fun s c hc => ?_⟩
  obtain rfl := State.context_of_selected hc
  refine ⟨fun hsec hclosed => ?_, exec_scadmit_of_context, exec_scadmit_of_plain⟩
  obtain h | h := hclosed <;> exact exec_scadmit_of_refused hsec (by simp [h]) (by simp [h])

/-! ## What the answer tells (R243, R247) -/

theorem State.answersOk_ok (s : State) (d : Byte) : AnswersOk (s.ok d) := ⟨d, rfl⟩

theorem State.not_answersOk_raise (s : State) {st : Status} (hst : st ≠ .ok) : ¬AnswersOk (s.raise st) := by
  rintro ⟨d, h⟩
  have hcode : st.code = 0x00#8 := by simpa using congrArg highByte (Option.some.inj h)
  cases st with
  | ok => exact hst rfl
  | _ => simp [Status.code] at hcode

/-- A SCWRAP that answers OK has protected IBUF under the next number. -/
theorem exec_scwrap_of_answersOk {s t : State} (h : exec .scwrap s = .next t) (hok : AnswersOk t) :
    s.context.state = .active ∧ s.context.seqTx ≠ 0xFFFFFFFF#32 ∧ t = s.wrapped := by
  obtain ⟨st, hst, e⟩ | ⟨hactive, hseq, e⟩ := exec_scwrap_cases s <;> cases h.symm.trans e
  · exact absurd hok (s.not_answersOk_raise hst)
  · exact ⟨hactive, hseq, rfl⟩

/-- A SCUNWRAP that answers OK has released a message with a number above all it had accepted. -/
theorem exec_scunwrap_of_answersOk {s t : State} (h : exec .scunwrap s = .next t) (hok : AnswersOk t) :
    s.context.state = .active ∧ secOvh s.cfg ≤ s.ilen ∧ s.context.seqRx < sprSeq s.ibuf ∧ t = s.released := by
  obtain ⟨st, hst, e⟩ | ⟨st, hst, e⟩ | ⟨hactive, hlen, hseq, e⟩ := exec_scunwrap_cases s <;> cases h.symm.trans e
  · exact absurd hok (s.not_answersOk_raise hst)
  · exact absurd hok (State.not_answersOk_raise _ hst)
  · exact ⟨hactive, hlen, hseq, rfl⟩

/-! ## The two ends (R249) -/

/-- What one end of a pair sends is what the other end expects to receive (R240). -/
theorem Context.dirRx_eq_dirTx {c i : Context} (h : c.role ≠ i.role) : c.dirRx = i.dirTx := by
  unfold Context.dirRx Context.dirTx
  cases hc : c.role <;> cases hi : i.role
  case initiator.initiator | responder.responder => exact absurd (hc.trans hi.symm) h
  case initiator.responder | responder.initiator => rfl

/-- Settles O50: IBUF of the receiver is the region that SCWRAP made, whose ciphertext deciphers to the plaintext
(45_cipher_suite.md R262) and whose tag is therefore the one SCUNWRAP computes. -/
theorem unwrapInvertsWrap : Obligations.UnwrapInvertsWrap := by
  unfold Obligations.UnwrapInvertsWrap
  intro s t r i c d hcfg hrcfg hi hwrap hresp hc hactive hkenc hkmac hrole hnew hrxaddr hrxctrl hmoved
  obtain ⟨-, -, rfl⟩ := exec_scwrap_of_answersOk hwrap ⟨d, hresp⟩
  obtain rfl := State.context_of_selected hi
  obtain rfl := State.context_of_selected hc
  have hlaw : s.suite.Lawful s.cfg := suiteOf_lawful hcfg
  have hsuite : r.suite = s.suite := congrArg suiteOf hrcfg
  have hibuf : r.ibuf = s.protectedRegion := hmoved
  have htag : (s.suite.mac s.context.kmac s.txaddr s.txctrl s.context.counted.seqTx s.ibuf).length = r.cfg.tagLen :=
    hrcfg ▸ hlaw.mac_length ..
  have hplain : r.deciphered = s.ibuf := by
    rw [State.deciphered_of_sprBytes hibuf htag, hsuite, hkenc, Context.dirRx_eq_dirTx hrole, hlaw.dec_enc]
  have hverifies : r.verifies := by
    rw [State.verifies_iff_of_sprBytes hibuf htag, hplain, hsuite, hkmac, hrxaddr, hrxctrl]
  have hseq : r.context.seqRx < sprSeq r.ibuf := State.sprSeq_ibuf hibuf ▸ hnew
  rw [exec_scunwrap_of_verifies hactive (State.secOvh_le_ilen hibuf htag) hseq hverifies,
    State.released_of_sprBytes hibuf htag, hplain, hlaw.enc_length, lenByte_eq_ofNat]
  rfl

/-! ## Replay (R247) -/

/-- The state with other receive header registers. -/
def State.withRxHeader (addr ctrl : Byte) (s : State) : State := { s with rxaddr := addr, rxctrl := ctrl }

/-- An Active context is one of the block's: beyond them `State.context` reads the reset value, which is Inactive. -/
theorem State.selected_context_of_active {s : State} (h : s.context.state = .active) : s.selected s.context := by
  by_cases hlt : s.ctx.toNat < s.sc.length
  · rw [State.selected, State.context, List.getD_eq_getElem _ _ hlt, List.getElem?_eq_getElem hlt]
  · rw [State.context, List.getD_eq_default _ _ (Nat.le_of_not_lt hlt)] at h
    cases h

theorem State.selected_setContext {s : State} {c : Context} (h : s.selected c) (d : Context) :
    (s.setContext d).selected d := by
  obtain ⟨hlt, -⟩ := List.getElem?_eq_some_iff.mp h
  exact List.getElem?_set_self hlt

@[simp] theorem Context.scFail_seqRx (cfg : Cfg) (c : Context) : (c.scFail cfg).seqRx = c.seqRx := by
  obtain ⟨-, e⟩ | ⟨-, e⟩ := c.scFail_cases cfg <;> rw [e]

@[simp] theorem Context.scFail_seqTx (cfg : Cfg) (c : Context) : (c.scFail cfg).seqTx = c.seqTx := by
  obtain ⟨-, e⟩ | ⟨-, e⟩ := c.scFail_cases cfg <;> rw [e]

/-- Settles O49: the context is still Active and has accepted the very number that IBUF still carries, so the sequence
check refuses it before the header is looked at. -/
theorem replayIsRejected : Obligations.ReplayIsRejected := by
  unfold Obligations.ReplayIsRejected
  intro s t d a k h hresp
  obtain ⟨hactive, hlen, -, rfl⟩ := exec_scunwrap_of_answersOk h ⟨d, hresp⟩
  have hsel : s.released.selected (s.context.accepted (sprSeq s.ibuf)) :=
    State.selected_setContext (State.selected_context_of_active hactive) _
  have hrepeated : (s.released.withRxHeader a k).selected (s.context.accepted (sprSeq s.ibuf)) := hsel
  have hcontext := State.context_of_selected hrepeated
  have hexec : exec .scunwrap (s.released.withRxHeader a k) = .next _ :=
    exec_scunwrap_of_seq_le (by rw [hcontext]; exact hactive) hlen (by rw [hcontext]; exact BitVec.le_refl _)
  refine ⟨_, _, _, hexec, rfl, rfl, hsel, State.selected_setContext hrepeated _, ?_⟩
  rw [Context.scFail_seqRx, hcontext]

/-! ## The counters (R243, R247) -/

section
variable {s t : State} {c d : Context}

/-- An instruction other than the two transport commands, or one that acts on another context, leaves a context alone
that is Active before and after: every other way of writing one starts or ends in another state
(43_secure_handshake.md R210). -/
theorem exec_context_eq_of_active {i : Instr} {k : Nat} (h : exec i s = .next t) (hc : s.sc[k]? = some c)
    (hd : t.sc[k]? = some d) (hactive : c.state = .active) (hstays : d.state = .active)
    (hi : k = s.ctx.toNat → i ≠ .scwrap ∧ i ≠ .scunwrap) : d = c := by
  obtain rfl | ⟨-, rfl⟩ | ⟨hk, hstep⟩ := exec_context_cases h hc hd
  · rfl
  · cases hstays
  · obtain ⟨hwrap, hunwrap⟩ := hi hk
    cases hstep with
    | scwrap => exact absurd rfl hwrap
    | scunwrap | scunwrapFail => exact absurd rfl hunwrap
    | scclr | scretry | sctmo | scvrfyFail | scrvfyFail | scfinFail => cases hstays
    | sckey hstate | scinit hstate | scchal hstate => cases hstate.symm.trans hactive
    | scvrfy hwaits | scrvfy hwaits | scfin _ hwaits => cases hwaits.1.symm.trans hactive

/-- The selected context, read after it is written. -/
theorem State.eq_of_sc_set {c' : Context} (hc : s.selected c) (hd : (s.setContext c').sc[s.ctx.toNat]? = some d) :
    d = c' :=
  Option.some.inj (hd.symm.trans (State.selected_setContext hc c'))

/-- SCWRAP counts in the selected context when it answers OK, and leaves it alone otherwise. -/
theorem exec_scwrap_context (h : exec .scwrap s = .next t) (hc : s.selected c) (hd : t.sc[s.ctx.toNat]? = some d) :
    (¬AnswersOk t ∧ d = c) ∨ (AnswersOk t ∧ c.seqTx ≠ 0xFFFFFFFF#32 ∧ d = c.counted) := by
  obtain rfl := State.context_of_selected hc
  obtain ⟨st, hst, e⟩ | ⟨-, hseq, e⟩ := exec_scwrap_cases s <;> cases h.symm.trans e
  · exact .inl ⟨s.not_answersOk_raise hst, Option.some.inj (hd.symm.trans hc)⟩
  · exact .inr ⟨State.answersOk_ok .., hseq, State.eq_of_sc_set hc hd⟩

/-- SCUNWRAP takes a higher number into the selected context when it answers OK, and at most counts a failure
otherwise. -/
theorem exec_scunwrap_context (h : exec .scunwrap s = .next t) (hc : s.selected c)
    (hd : t.sc[s.ctx.toNat]? = some d) :
    (¬AnswersOk t ∧ (d = c ∨ d = c.scFail s.cfg)) ∨
    (AnswersOk t ∧ ∃ seq, c.seqRx < seq ∧ d = c.accepted seq) := by
  obtain rfl := State.context_of_selected hc
  obtain ⟨st, hst, e⟩ | ⟨st, hst, e⟩ | ⟨-, -, hseq, e⟩ := exec_scunwrap_cases s <;> cases h.symm.trans e
  · exact .inl ⟨s.not_answersOk_raise hst, .inl (Option.some.inj (hd.symm.trans hc))⟩
  · exact .inl ⟨State.not_answersOk_raise _ hst, .inr (State.eq_of_sc_set hc hd)⟩
  · exact .inr ⟨State.answersOk_ok .., _, hseq, State.eq_of_sc_set hc hd⟩

/-- A failure that leaves the context Active leaves its keys (R246). -/
theorem Context.scFail_keys_of_active {cfg : Cfg} (h : (c.scFail cfg).state = .active) :
    (c.scFail cfg).kenc = c.kenc ∧ (c.scFail cfg).kmac = c.kmac := by
  obtain ⟨-, e⟩ | ⟨-, e⟩ := c.scFail_cases cfg <;> rw [e] at h ⊢
  · exact ⟨rfl, rfl⟩
  · cases h

theorem Context.counted_seqTx_toNat (h : c.seqTx ≠ 0xFFFFFFFF#32) : c.counted.seqTx.toNat = c.seqTx.toNat + 1 := by
  show (c.seqTx + 1#32).toNat = _
  bv_omega

end

/-- Settles O58: SCWRAP and SCUNWRAP of the selected context as their answer says, and every other instruction, or
context, by `exec_context_eq_of_active`. -/
theorem countersRiseWhileActive : Obligations.CountersRiseWhileActive := by
  unfold Obligations.CountersRiseWhileActive
  intro i s t k c d h hc hd hactive hstays
  by_cases hwrap : k = s.ctx.toNat ∧ i = .scwrap
  · obtain ⟨rfl, rfl⟩ := hwrap
    obtain ⟨hraised, rfl⟩ | ⟨hok, hseq, rfl⟩ := exec_scwrap_context h hc hd
    · simp [hraised]
    · have hrises := Context.counted_seqTx_toNat hseq
      exact ⟨rfl, rfl, .inr ⟨rfl, hrises⟩, .inl rfl, fun _ _ _ => hrises, nofun, by simp [hok]⟩
  by_cases hunwrap : k = s.ctx.toNat ∧ i = .scunwrap
  · obtain ⟨rfl, rfl⟩ := hunwrap
    obtain ⟨hraised, rfl | rfl⟩ | ⟨hok, seq, hnew, rfl⟩ := exec_scunwrap_context h hc hd
    · simp [hraised]
    · simp [hraised, Context.scFail_keys_of_active hstays]
    · exact ⟨rfl, rfl, .inl rfl, .inr ⟨rfl, hnew⟩, nofun, fun _ _ _ => hnew, by simp [hok]⟩
  · obtain rfl := exec_context_eq_of_active h hc hd hactive hstays
      fun hk => ⟨fun hi => hwrap ⟨hk, hi⟩, fun hi => hunwrap ⟨hk, hi⟩⟩
    exact ⟨rfl, rfl, .inl rfl, .inl rfl, fun hk _ hi => absurd ⟨hk, hi⟩ hwrap,
      fun hk _ hi => absurd ⟨hk, hi⟩ hunwrap, fun _ => ⟨rfl, rfl⟩⟩

end Sys2Proof.Machine

/-! # The reference suite and the trivial suite (45_cipher_suite.md R266 to R279) -/

namespace Sys2Proof.Machine

/-! ## Messages cut into blocks -/

section
variable {blocks : List (List Byte)} {last : List Byte}

theorem flatten_append_length_of_blocks (h : ∀ b ∈ blocks, b.length = 16) (last : List Byte) :
    (blocks.flatten ++ last).length = 16 * blocks.length + last.length := by
  rw [List.length_append, List.length_flatten, List.map_eq_replicate_iff.mpr h, List.sum_replicate, smul_eq_mul,
    Nat.mul_comm]

theorem drop_flatten_append (h : ∀ b ∈ blocks, b.length = 16) (last : List Byte) :
    (blocks.flatten ++ last).drop (16 * blocks.length) = last := by
  have hlen := flatten_append_length_of_blocks h []
  exact List.drop_left' (by simpa using hlen)

/-- The 16 bytes at index `16 * i` of a message are its block `i`. -/
theorem slice_flatten_append (h : ∀ b ∈ blocks, b.length = 16) (last : List Byte) {i : Nat} (hi : i < blocks.length) :
    slice (blocks.flatten ++ last) (16 * i) 16 = blocks[i] := by
  induction blocks generalizing i with
  | nil => cases hi
  | cons b blocks ih =>
    have hb : b.length = 16 := h b List.mem_cons_self
    rw [List.flatten_cons, List.append_assoc, slice]
    cases i with
    | zero => exact List.take_left' hb
    | succ i =>
      have hdrop : 16 * (i + 1) = b.length + 16 * i := by omega
      rw [hdrop, List.drop_length_add_append]
      exact ih (fun b' hb' => h b' (List.mem_cons_of_mem _ hb')) (Nat.lt_of_succ_lt_succ hi)

theorem map_slice_flatten_append (h : ∀ b ∈ blocks, b.length = 16) (last : List Byte) :
    (List.range blocks.length).map (fun i => slice (blocks.flatten ++ last) (16 * i) 16) = blocks := by
  refine List.ext_getElem (by simp) fun i _ hi => ?_
  rw [List.getElem_map, List.getElem_range, slice_flatten_append h last hi]

/-! ## CMAC (R274) -/

/-- `n` complete blocks and a last one of `r` bytes, which is empty in the empty message only. -/
theorem cmacBlocks_of_last {n r : Nat} (hr : r ≤ 16) (hempty : r = 0 → n = 0) : cmacBlocks (16 * n + r) = n + 1 := by
  unfold cmacBlocks
  omega

/-- A message of `n` complete blocks and a last one of `r` bytes is complete when the last one is. -/
theorem complete_iff_last {n r : Nat} (hr : r ≤ 16) (hempty : r = 0 → n = 0) :
    0 < 16 * n + r ∧ (16 * n + r) % 16 = 0 ↔ r = 16 := by
  omega

theorem blocks_length_of_last (hempty : last = [] → blocks = []) (h : last.length = 0) : blocks.length = 0 :=
  List.length_eq_zero_iff.mpr (hempty (List.length_eq_zero_iff.mp h))

theorem cmacLast_flatten_append (k : List Byte) (h : ∀ b ∈ blocks, b.length = 16) (hlast : last.length ≤ 16)
    (hempty : last = [] → blocks = []) :
    cmacLast k (blocks.flatten ++ last) =
      if last.length = 16 then xorBlock last (dbl (aesEncrypt k (zeroBytes 16)))
      else xorBlock (last ++ [0x80#8] ++ zeroBytes (15 - last.length)) (dbl (dbl (aesEncrypt k (zeroBytes 16)))) := by
  have hzero := blocks_length_of_last hempty
  simp only [cmacLast, flatten_append_length_of_blocks h, cmacBlocks_of_last hlast hzero, Nat.add_sub_cancel,
    drop_flatten_append h, complete_iff_last hlast hzero]

/-- CMAC chains over the complete blocks before the last one, and then takes the last one, masked. -/
theorem cmac_flatten_append (k : List Byte) (h : ∀ b ∈ blocks, b.length = 16) (hlast : last.length ≤ 16)
    (hempty : last = [] → blocks = []) :
    cmac k (blocks.flatten ++ last) = aesEncrypt k (xorBlock
      (blocks.foldl (fun x b => aesEncrypt k (xorBlock x b)) (zeroBytes 16)) (cmacLast k (blocks.flatten ++ last))) := by
  have hblocks : cmacBlocks (blocks.flatten ++ last).length - 1 = blocks.length := by
    rw [flatten_append_length_of_blocks h, cmacBlocks_of_last hlast (blocks_length_of_last hempty), Nat.add_sub_cancel]
  have hchain : (List.range blocks.length).foldl
      (fun x i => aesEncrypt k (xorBlock x (slice (blocks.flatten ++ last) (16 * i) 16))) (zeroBytes 16) =
      blocks.foldl (fun x b => aesEncrypt k (xorBlock x b)) (zeroBytes 16) := by
    conv_rhs => rw [← map_slice_flatten_append h last, List.foldl_map]
  rw [cmac, hblocks, hchain]

end

/-! ## The counter keystream (R277) -/

theorem counterBlock_eq (d : BitVec 1) (seq : Word32) (i : Nat) :
    counterBlock d seq i = [d.setWidth 8, 0#8, 0#8, 0#8, 0#8, 0#8, 0#8, 0#8,
      seq.extractLsb' 0 8, seq.extractLsb' 8 8, seq.extractLsb' 16 8, seq.extractLsb' 24 8,
      (BitVec.ofNat 32 i).extractLsb' 0 8, (BitVec.ofNat 32 i).extractLsb' 8 8,
      (BitVec.ofNat 32 i).extractLsb' 16 8, (BitVec.ofNat 32 i).extractLsb' 24 8] := by
  rw [counterBlock, le32_eq_extract, le32_eq_extract]
  rfl

theorem slice_keystream (k : List Byte) (d : BitVec 1) (seq : Word32) {n i : Nat} (hi : i < n) :
    slice (keystream k d seq n) (16 * i) 16 = aesEncrypt k (counterBlock d seq i) := by
  have hcut := slice_flatten_append (blocks := (List.range n).map fun j => aesEncrypt k (counterBlock d seq j))
    (by simp) [] (i := i) (by simpa using hi)
  simpa [keystream, List.flatMap] using hcut

/-- Byte `i` of the keystream is byte `i mod 16` of the block it falls into. -/
theorem keystream_getElem? (k : List Byte) (d : BitVec 1) (seq : Word32) {n i : Nat} (hi : i < 16 * n) :
    (keystream k d seq n)[i]? = (aesEncrypt k (counterBlock d seq (i / 16)))[i % 16]? := by
  rw [← slice_keystream k d seq (Nat.div_lt_of_lt_mul hi), slice, List.getElem?_take_of_lt (Nat.mod_lt i (by decide)),
    List.getElem?_drop, Nat.div_add_mod]

/-- Byte `i` of the result is byte `i` of the text and of the keystream, exclusive or. -/
theorem refCrypt_getElem? (k : List Byte) (d : BitVec 1) (seq : Word32) {text : List Byte} {i : Nat} {b : Byte}
    (hb : text[i]? = some b) :
    ∃ z, (aesEncrypt k (counterBlock d seq (i / 16)))[i % 16]? = some z ∧
      (refCrypt k d seq text)[i]? = some (b ^^^ z) := by
  have hi : i < text.length := (List.getElem?_eq_some_iff.mp hb).1
  have hz : i % 16 < (aesEncrypt k (counterBlock d seq (i / 16))).length := by
    rw [aesEncrypt_length]
    exact Nat.mod_lt i (by decide)
  refine ⟨_, List.getElem?_eq_getElem hz, ?_⟩
  have hkey := keystream_getElem? k d seq (n := (text.length + 15) / 16) (i := i) (by omega)
  rw [refCrypt, xorBytes, List.getElem?_zipWith, hb, hkey, List.getElem?_eq_getElem hz]

/-! ## The suites -/

/-- The message of the tag, byte by byte (R276). -/
theorem tagMessage_eq (a x : Byte) (seq : Word32) (text : List Byte) :
    tagMessage a x seq text = [a, x, seq.extractLsb' 0 8, seq.extractLsb' 8 8, seq.extractLsb' 16 8,
      seq.extractLsb' 24 8] ++ text := by
  rw [tagMessage, le32_eq_extract]
  rfl

theorem suiteOf_of_ref {c : Cfg} (h : c.suite = .ref) : suiteOf c = suiteRef c := by
  rw [suiteOf, h]

theorem suiteOf_of_null {c : Cfg} (h : c.suite = .null) : suiteOf c = suiteNull c := by
  rw [suiteOf, h]

/-! ## The published vectors (R279) -/

/-- The key of the vectors of R279. -/
def vectorKey : List Byte :=
  [0x2B#8, 0x7E#8, 0x15#8, 0x16#8, 0x28#8, 0xAE#8, 0xD2#8, 0xA6#8,
    0xAB#8, 0xF7#8, 0x15#8, 0x88#8, 0x09#8, 0xCF#8, 0x4F#8, 0x3C#8]

/-- The block 0x00 under `vectorKey`: what the masks of CMAC come from. -/
theorem aesEncrypt_vectorKey_zeroBytes :
    aesEncrypt vectorKey (zeroBytes 16) =
      [0x7D#8, 0xF7#8, 0x6B#8, 0x0C#8, 0x1A#8, 0xB8#8, 0x99#8, 0xB3#8,
        0x3E#8, 0x42#8, 0xF0#8, 0x47#8, 0xB9#8, 0x1B#8, 0x54#8, 0x6F#8] := by decide +kernel

theorem aesEncrypt_vectorKey_example :
    aesEncrypt vectorKey [0x32#8, 0x43#8, 0xF6#8, 0xA8#8, 0x88#8, 0x5A#8, 0x30#8, 0x8D#8,
        0x31#8, 0x31#8, 0x98#8, 0xA2#8, 0xE0#8, 0x37#8, 0x07#8, 0x34#8] =
      [0x39#8, 0x25#8, 0x84#8, 0x1D#8, 0x02#8, 0xDC#8, 0x09#8, 0xFB#8,
        0xDC#8, 0x11#8, 0x85#8, 0x97#8, 0x19#8, 0x6A#8, 0x0B#8, 0x32#8] := by decide +kernel

/-- Bit 127 of `l` is clear: the doubling of CMAC's first mask is a shift. -/
theorem dbl_vector_of_clear :
    dbl [0x7D#8, 0xF7#8, 0x6B#8, 0x0C#8, 0x1A#8, 0xB8#8, 0x99#8, 0xB3#8,
        0x3E#8, 0x42#8, 0xF0#8, 0x47#8, 0xB9#8, 0x1B#8, 0x54#8, 0x6F#8] =
      [0xFB#8, 0xEE#8, 0xD6#8, 0x18#8, 0x35#8, 0x71#8, 0x33#8, 0x66#8,
        0x7C#8, 0x85#8, 0xE0#8, 0x8F#8, 0x72#8, 0x36#8, 0xA8#8, 0xDE#8] := by decide +kernel

/-- Bit 127 of `k1` is set: 0x87 goes in. -/
theorem dbl_vector_of_set :
    dbl [0xFB#8, 0xEE#8, 0xD6#8, 0x18#8, 0x35#8, 0x71#8, 0x33#8, 0x66#8,
        0x7C#8, 0x85#8, 0xE0#8, 0x8F#8, 0x72#8, 0x36#8, 0xA8#8, 0xDE#8] =
      [0xF7#8, 0xDD#8, 0xAC#8, 0x30#8, 0x6A#8, 0xE2#8, 0x66#8, 0xCC#8,
        0xF9#8, 0x0B#8, 0xC1#8, 0x1E#8, 0xE4#8, 0x6D#8, 0x51#8, 0x3B#8] := by decide +kernel

/-- Settles O52: the laws by `suiteOf_lawful`, the reference suite by its tag message, its keystream and CMAC cut into
blocks, the vectors by evaluation. -/
theorem suiteIsAsSpecified : Obligations.SuiteIsAsSpecified := by
  unfold Obligations.SuiteIsAsSpecified
  refine ⟨fun _ => suiteOf_lawful, ?reference, ?chaining, ?vectors, ?trivialSuite⟩
  case reference =>
    rintro c _ k na nb text a x d seq href rfl
    rw [suiteOf_of_ref href, ← tagMessage_eq]
    refine ⟨rfl, rfl, rfl, rfl, rfl, rfl, ?_⟩
    rintro i b _ hb rfl
    rw [← counterBlock_eq]
    exact refCrypt_getElem? k d seq hb
  case chaining =>
    intro k last blocks hblocks hlast hempty
    rw [cmac_flatten_append k hblocks hlast hempty, cmacLast_flatten_append k hblocks hlast hempty]
  case vectors =>
    rintro _ _ _ _ rfl rfl rfl rfl
    exact ⟨aesEncrypt_vectorKey_zeroBytes, dbl_vector_of_clear, dbl_vector_of_set, aesEncrypt_vectorKey_example⟩
  case trivialSuite =>
    rintro c _ _ _ _ _ _ _ _ _ hnull rfl
    rw [suiteOf_of_null hnull]
    exact ⟨rfl, rfl, rfl, rfl, rfl, rfl, rfl⟩

end Sys2Proof.Machine

/-! # The host operations (46_host_ops.md R301 to R317) -/

namespace Sys2Proof.Machine

theorem commandN_of_decodeOpcode {op : Byte} {i : Instr} (h : ∀ imm, decodeOpcode op.toNat imm = some i) :
    CommandN op i :=
  fun imm => decodeCommand_append_eq_ok_iff.mpr (h imm)

/-! ## What each command answers and changes -/

section
variable (s : State) (imm : Byte)

theorem exec_nop : exec .nop s = .next (s.answered 0x00#8) := rfl

theorem exec_reset : exec .reset s = .next (s.resetBlock.answered 0x00#8) := rfl

theorem exec_rdflags : exec .rdflags s = .next (s.answered s.eflags) := rfl

theorem exec_clrflags : exec .clrflags s = .next (State.answered { s with eflags := 0x00#8 } 0x00#8) := rfl

theorem exec_iclr : exec .iclr s = .next (State.answered { s with ibuf := [] } 0x00#8) := rfl

theorem exec_olenl : exec .olenl s = .next (s.answered (BitVec.ofNat 8 s.obuf.length)) := by
  rw [← lowByte_lenWord]
  rfl

theorem exec_olenh : exec .olenh s = .next (s.answered (BitVec.ofNat 8 (s.obuf.length / 256))) := by
  rw [← highByte_lenWord]
  rfl

theorem exec_xfer :
    exec .xfer s = .next (State.answered { s with ibuf := s.obuf } (BitVec.ofNat 8 s.obuf.length)) := by
  rw [← lenByte_eq_ofNat]
  rfl

theorem exec_orew : exec .orew s = .next (State.answered { s with optr := 0#16 } 0x00#8) := rfl

theorem exec_rxflush :
    exec .rxflush s = .next (State.answered { s with rxbuf := [] } (BitVec.ofNat 8 s.rxbuf.length)) := by
  rw [← lenByte_eq_ofNat]
  rfl

theorem exec_setaddr : exec (.setaddr imm) s = .next (State.answered { s with txaddr := imm } imm) := rfl

theorem exec_setctrl : exec (.setctrl imm) s = .next (State.answered { s with txctrl := imm } imm) := rfl

theorem exec_getaddr : exec .getaddr s = .next (s.answered s.rxaddr) := rfl

theorem exec_getctrl : exec .getctrl s = .next (s.answered s.rxctrl) := rfl

theorem exec_fstat : exec .fstat s = .next (s.answered (fstatByte s)) := rfl

end

section
variable {s : State} {imm : Byte}

theorem exec_push_of_length_ne (h : s.ibuf.length ≠ s.cfg.maxFrameLen) :
    exec (.push imm) s = .next (State.answered { s with ibuf := s.ibuf ++ [imm] } 0x00#8) :=
  congrArg Host.Outcome.next (if_neg h)

theorem exec_push_of_length_eq (h : s.ibuf.length = s.cfg.maxFrameLen) :
    exec (.push imm) s = .next (s.raise .overflow) :=
  congrArg Host.Outcome.next (if_pos h)

theorem exec_pop_of_popByte_eq_some {d : Byte} (h : s.popByte = some d) :
    exec .pop s = .next (State.answered { s with optr := s.optr + 1#16 } d) := by
  change execPop s = _
  rw [execPop, h]
  rfl

theorem exec_pop_of_popByte_eq_none (h : s.popByte = none) : exec .pop s = .next (s.raise .underflow) := by
  change execPop s = _
  rw [execPop, h]

/-- POP finds nothing exactly from OLEN on (46_host_ops.md R307). -/
theorem State.popByte_eq_none_iff : s.popByte = none ↔ s.obuf.length ≤ s.optr.toNat := List.getElem?_eq_none_iff

end

/-! ## The byte of FSTAT (30_encoding.md R118, 46_host_ops.md R316) -/

/-- The layout of the byte of FSTAT, over its four conditions. -/
def queueByte (rxEmpty rxFull txEmpty txShort : Bool) : Byte :=
  (if rxEmpty then 0x01#8 else 0#8) ||| (if rxFull then 0x02#8 else 0#8) |||
    (if txEmpty then 0x04#8 else 0#8) ||| (if txShort then 0x08#8 else 0#8)

theorem fstatByte_eq_queueByte (s : State) : fstatByte s =
    queueByte (s.rxbuf.length = 0) (s.rxbuf.length = s.cfg.rxbufSize) (s.txfifo.length = 0)
      (s.cfg.txfifoSize < s.txfifo.length + s.cfg.maxFrameLen) := by
  simp only [fstatByte, queueByte, decide_eq_true_eq]

/-- The conditions have a bit each: each is read back, for each of the 16 combinations. -/
theorem queueByte_bits : ∀ rxEmpty rxFull txEmpty txShort : Bool,
    (queueByte rxEmpty rxFull txEmpty txShort).getLsbD 0 = rxEmpty ∧
    (queueByte rxEmpty rxFull txEmpty txShort).getLsbD 1 = rxFull ∧
    (queueByte rxEmpty rxFull txEmpty txShort).getLsbD 2 = txEmpty ∧
    (queueByte rxEmpty rxFull txEmpty txShort).getLsbD 3 = txShort ∧
    queueByte rxEmpty rxFull txEmpty txShort >>> 4 = 0#8 := by
  decide

/-- Bit 3 compares the free bytes of TXFIFO with MAX_FRAME_LEN; the model adds where the rule subtracts. -/
theorem txfifo_short_iff (s : State) : s.cfg.txfifoSize < s.txfifo.length + s.cfg.maxFrameLen ↔
    (s.cfg.txfifoSize : Int) - s.txfifo.length < s.cfg.maxFrameLen := by
  omega

/-! ## The obligations about the host operations -/

/-- Settles O17: FSTAT answers the layout of `queueByte`, whose bits are the four conditions. -/
theorem fstatBits : Obligations.FstatBits := by
  unfold Obligations.FstatBits
  refine ⟨commandN_of_decodeOpcode fun _ => rfl, fun s => ⟨fstatByte s, exec_fstat s, ?_⟩⟩
  obtain ⟨hrxEmpty, hrxFull, htxEmpty, htxShort, hreserved⟩ := queueByte_bits (s.rxbuf.length = 0)
    (s.rxbuf.length = s.cfg.rxbufSize) (s.txfifo.length = 0) (s.cfg.txfifoSize < s.txfifo.length + s.cfg.maxFrameLen)
  rw [fstatByte_eq_queueByte, hrxEmpty, hrxFull, htxEmpty, htxShort, ← txfifo_short_iff]
  exact ⟨decide_eq_true_iff, decide_eq_true_iff, decide_eq_true_iff, decide_eq_true_iff, hreserved⟩

/-- Settles O11: three rows of the opcode map, each with its equation. -/
theorem systemCommands : Obligations.SystemCommands := by
  unfold Obligations.SystemCommands
  refine ⟨?_, ?_, ?_, fun s => ⟨exec_nop s, exec_rdflags s, exec_clrflags s⟩⟩
  all_goals exact commandN_of_decodeOpcode fun _ => rfl

/-- Settles O12: RESET is the reset transition, with the answer `OK` on top. -/
theorem resetCommand : Obligations.ResetCommand := by
  unfold Obligations.ResetCommand
  exact ⟨commandN_of_decodeOpcode fun _ => rfl, fun s => ⟨_, exec_reset s, s.atReset_resetBlock, rfl, rfl⟩⟩

/-- Settles O13: PUSH has one check, of ILEN. -/
theorem pushAppends : Obligations.PushAppends := by
  unfold Obligations.PushAppends
  exact ⟨commandI_of_decodeOpcode fun _ => rfl, fun s imm => ⟨exec_push_of_length_ne, exec_push_of_length_eq⟩⟩

/-- Settles O14: POP asks `popByte`, which is the byte of OBUF at OPTR, and nothing at OLEN. -/
theorem popReads : Obligations.PopReads := by
  unfold Obligations.PopReads
  refine ⟨commandN_of_decodeOpcode fun _ => rfl, fun s => ⟨fun d hd => ?byte, fun hend => ?nothing⟩⟩
  case byte => exact exec_pop_of_popByte_eq_some ((s.popByte_eq_some_iff d).mpr hd)
  case nothing => exact exec_pop_of_popByte_eq_none (State.popByte_eq_none_iff.mpr hend.ge)

/-- Settles O15: six rows of the opcode map, each with its equation. -/
theorem bufferCommands : Obligations.BufferCommands := by
  unfold Obligations.BufferCommands
  refine ⟨?_, ?_, ?_, ?_, ?_, ?_, fun s =>
    ⟨exec_iclr s, exec_olenl s, exec_olenh s, exec_xfer s, exec_orew s, exec_rxflush s⟩⟩
  all_goals exact commandN_of_decodeOpcode fun _ => rfl

/-- Settles O16: two rows of format I and two of format N, each with its equation. -/
theorem headerRegisterCommands : Obligations.HeaderRegisterCommands := by
  unfold Obligations.HeaderRegisterCommands
  refine ⟨?_, ?_, ?_, ?_, fun s imm =>
    ⟨exec_setaddr s imm, exec_setctrl s imm, exec_getaddr s, exec_getctrl s⟩⟩
  case refine_1 | refine_2 => exact commandI_of_decodeOpcode fun _ => rfl
  case refine_3 | refine_4 => exact commandN_of_decodeOpcode fun _ => rfl

end Sys2Proof.Machine

/-! # Every command answers (60_exceptions.md R340, 46_host_ops.md R318) -/

namespace Sys2Proof.Machine

/-! ## What the response word holds -/

/-- The response holds a status, and data 0x00 unless the status is OK (46_host_ops.md R318). -/
def State.Reports (t : State) : Prop :=
  ∃ (st : Status) (data : Byte), t.env.resp = some (st.code ++ data) ∧ (st ≠ .ok → data = 0x00#8)

/-- A command that answers so does it at once: its outcome is a next state that reports a status. -/
abbrev Completes (o : Host.Outcome State Fault Refusal) : Prop := Yields o State.Reports

section
variable {u : State} {st : Status} {data : Byte}

theorem completes_ok : Completes (.next (u.ok data)) := .next ⟨.ok, data, rfl, absurd rfl⟩

theorem completes_respond_zero : Completes (.next (u.respond st 0#8)) := .next ⟨st, 0#8, rfl, fun _ => rfl⟩

theorem completes_raise : Completes (.next (u.raise st)) := completes_respond_zero

/-- A check that raises when it fails: what is left is the command behind the check. -/
theorem Completes.check {p : Prop} [Decidable p] {o : Host.Outcome State Fault Refusal} (h : Completes o) :
    Completes (if p then .next (u.raise st) else o) :=
  .ite (fun _ => completes_raise) fun _ => h

end

/-! ## The commands that are more than checks before an `OK` -/

section
variable (s : State)

theorem execPush_completes (imm : Byte) : Completes (execPush imm s) := by
  unfold execPush
  obtain ⟨-, hpush⟩ | ⟨-, hpush⟩ := s.pushByte_cases imm <;> rw [hpush]
  · exact completes_raise
  · exact completes_ok

theorem execPop_completes : Completes (execPop s) := by
  unfold execPop
  split
  next => exact completes_raise
  next => exact completes_ok

theorem execEncode_completes : Completes (execEncode s) :=
  .check (.ite (fun _ => completes_ok) fun _ => completes_raise)

/-- NEED_MORE is the one status that is neither OK nor raised (41_framer_decode.md R165). -/
theorem execDecode_completes : Completes (execDecode s) := by
  unfold execDecode
  cases parseFrame s.cfg s.rxbuf with
  | needMore => exact completes_respond_zero
  | badStart | badLength | badTrailer => exact completes_raise
  | frame => exact completes_ok

theorem execScfin_completes (imm : Byte) : Completes (execScfin imm s) :=
  .check (.ite (fun _ => completes_ok) fun _ => completes_raise)

end

/-! ## Every command -/

/-- The commands differ in how many checks stand before the `OK`; a check that fails is a raise. -/
theorem exec_completes {i : Instr} (hi : IsCommand i) (s : State) : Completes (exec i s) := by
  obtain ⟨hck, hcrc, hspr⟩ := hi
  cases i with
  | frameCk a k p => exact absurd rfl (hck a k p)
  | frameCrc a k p => exact absurd rfl (hcrc a k p)
  | spr seq ct tag => exact absurd rfl (hspr seq ct tag)
  | push imm => exact execPush_completes s imm
  | pop => exact execPop_completes s
  | encode => exact execEncode_completes s
  | decode => exact execDecode_completes s
  | scfin imm => exact execScfin_completes s imm
  | nop | reset | rdflags | clrflags | iclr | olenl | olenh | xfer | orew | setaddr | setctrl | getaddr | getctrl
  | rxflush | fstat | cksinit | cksupd | cksget | crcinit | crcupd | crcgetl | crcgeth | cksbuf | crcbuf | scstat
  | scclr | scfails => exact completes_ok
  | scsel | sctmo | scretry | scadmit => exact .check completes_ok
  | sckey | scinit => exact .check (.check completes_ok)
  | scchal | scvrfy | scrvfy | scwrap => exact .check (.check (.check completes_ok))
  | scunwrap => exact .check (.check (.check (.check completes_ok)))

/-- Settles O60: every command completes with a status and its data (`exec_completes`), and the codes of the 19
statuses are those of the table, 0x00 that of OK alone. -/
theorem everyCommandAnswersAStatus : Obligations.EveryCommandAnswersAStatus := by
  unfold Obligations.EveryCommandAnswersAStatus
  intro i s hi
  obtain ⟨t, hexec, st, data, hresp, hdata⟩ := exec_completes hi s
  refine ⟨t, st.code, data, hexec, hresp, ?inTable, fun hcode => hdata ?notOk⟩
  case inTable => cases st <;> decide
  case notOk => exact fun hok => hcode (congrArg Status.code hok)

end Sys2Proof.Machine

/-! # Hardware reset (70_reset_and_hazards.md R380) -/

namespace Sys2Proof.Machine

theorem State.atReset_hardwareReset (s : State) : s.hardwareReset.atReset := s.atReset_resetBlock

/-- The hardware reset step is enabled in every state (R380). -/
theorem step_of_hwReset {s : State} {rest : List Event} (h : s.env.events = .hwReset :: rest) :
    step s = .next ({ s with env := { s.env with events := rest } } : State).hardwareReset := by
  have hnext : s.nextEvent = some .hwReset := by rw [State.nextEvent, h, List.head?_cons]
  rw [step, hnext, ← State.dropEvent_of_events_eq_cons h]

/-- Settles O9: the step is `hardwareReset` of the state with its event taken, and that keeps the configuration and,
but for the response, the environment. -/
theorem hardwareResetStep : Obligations.HardwareResetStep := by
  unfold Obligations.HardwareResetStep
  intro s rest hev
  exact ⟨_, step_of_hwReset hev, State.atReset_hardwareReset _, State.hardwareReset_cfg _, rfl⟩

end Sys2Proof.Machine
